-- ==== Sys2Proof/Word.lean ====
section
/-! DEFINITION. The word types of the engine and the fixed sets of names its rules use: bytes and register words
(20_memory.md R158), the phases (10_state.md R52), the errors and their details (60_exceptions.md R700, R701), and the
transfers the host makes at the engine's signals (46_host_interface.md R650). -/

namespace Sys2Proof

/-- One byte of a stream port, of the window or of a gzip field (R158). -/
abbrev Byte := BitVec 8

/-- One 32-bit register word of the host bus (R154, R158). -/
abbrev Word := BitVec 32

/-- The 18 phases of R52; each but `idle`, `done` and `error` names the step rule that runs next. -/
inductive Phase where
  | idle
  | gzFixed
  | gzXlen
  | gzExtra
  | gzName
  | gzComment
  | gzHcrc
  | blkHdr
  | storedLen
  | storedCopy
  | dynHdr
  | dynCllens
  | dynLens
  | symbol
  | copy
  | trailer
  | done
  | error
  deriving DecidableEq, Repr

/-- The sub-causes of CorruptBlock (R701); the value 0, "not a CorruptBlock", is the absence of one. -/
inductive Detail where
  | btypeReserved
  | storedNlen
  | hlitRange
  | hdistRange
  | clOversub
  | clNocode
  | repeatNoPrev
  | repeatOverrun
  | llOversub
  | llNoEob
  | dOversub
  | llNocode
  | dNocode
  | llSymInvalid
  | dSymInvalid
  deriving DecidableEq, Repr

/-- The seven errors of R700. Only CorruptBlock carries a detail (R701, R704). -/
inductive Err where
  | invalidMagic
  | unsupportedMethod
  | corruptBlock (d : Detail)
  | windowUnderflow
  | checksumMismatch
  | lengthMismatch
  | unexpectedEndOfInput
  deriving DecidableEq, Repr

/-- The formats of the opcode table (30_encoding.md R200 to R211, R242): what an element or a host command is
selected within. -/
inductive Format where
  | gzFixed
  | gzXlen
  | gzExtra
  | gzName
  | gzComment
  | gzHcrc
  | blkHdr
  | stored
  | dynHdr
  | dynCllens
  | clSym
  | llSym
  | dSym
  | gzTrailer
  | host
  deriving DecidableEq, Repr

/-- One transfer or level change that the host makes at the engine's signals (R650): the reset line, a register
transfer at a block offset, an access of the byte-addressed bus (R16, R160), the input port, the end-of-input line, an
output transfer, and the level of `out_ready` (R57, R662). A bus write carries its bytes, byte `k` for the bus address
`addr + k`; a bus read asks for the `n` bytes from `addr` on (R154). -/
inductive Signal where
  | rst
  | regWrite (off : BitVec 6) (v : Word)
  | regRead (off : BitVec 6)
  | memWrite (addr : Nat) (data : List Byte)
  | memRead (addr n : Nat)
  | inByte (b : Byte)
  | inEnd
  | outTransfer
  | outReady (level : Bool)
  deriving DecidableEq, Repr

end Sys2Proof
end

