-- ==== Sys2Proof/Config.lean ====
section
/-! DEFINITION. What is fixed for this hardware (00_scope.md R13), the one parameter the spec leaves to the platform
(R14), and the values the spec leaves unspecified (93_implementation_defined.md U1, U2, U13): those have no body, so
nothing can be proved about which value they are. -/

namespace Sys2Proof

/-- WINDOW_SIZE of R13: the window's bytes, also MAX_DIST. -/
def Config.windowSize : Nat := 32768

/-- LL_ALPHABET of R13. -/
def Config.llAlphabet : Nat := 288

/-- The decodable codes of the distance alphabet, D_ALPHABET of R13 (90_conflicts.md C4). -/
def Config.dAlphabet : Nat := 32

/-- CL_ALPHABET of R13. -/
def Config.clAlphabet : Nat := 19

/-- HLIT_MAX of R13. -/
def Config.hlitMax : Nat := 286

/-- HDIST_MAX of R13. -/
def Config.hdistMax : Nat := 30

/-- MAXBITS_LD of R13. -/
def Config.maxBitsLD : Nat := 15

/-- MAXBITS_CL of R13. -/
def Config.maxBitsCL : Nat := 7

/-- MAX_READBITS of R13. -/
def Config.maxReadBits : Nat := 16

/-- The size in bytes of the register block (R59). -/
def Config.regBlockBytes : Nat := 64

/-- REG_BASE of R14: the base address of the register block on the host bus, a platform parameter (U13). -/
opaque Config.regBase : Nat

/-- FREE VALUE. The draw of a register read while BUSY = 1 (R164, U2), one fresh argument per read. -/
opaque Config.freeRead : Nat → Word

/-- FREE VALUE. What window byte `addr` holds before the engine writes it, after the hardware reset numbered
`epoch` (R55 "UNSPEC", R750, U1). -/
opaque Config.windowUnspec : (epoch addr : Nat) → Byte

end Sys2Proof
end

