-- ==== Sys2Proof/Syntax.lean ====
section
/-! DEFINITION. The syntax of the engine's instructions: one constructor per row of the opcode table (30_encoding.md
R242), the stream elements first, then the host's commands. The constructor's fields are the operands the element
carries, as R201 to R211 give them; the bits that select the row (the phase, a block type, a Huffman symbol, the
fixed header bytes) are the constructor itself. -/

namespace Sys2Proof

/-- The instructions: every row of the opcode table. A length symbol (`len257` to `len285`) is followed in the same
LL_SYM element by a distance symbol (`dist0` to `d31`), R209, R210. -/
inductive Instr where
  /-- GZ_FIXED (R600, R201): the fixed gzip header; its first three bytes 1F 8B 08 select it, these are the fields after them. -/
  | gzFixed (flg : BitVec 8) (mtime : BitVec 32) (xfl : BitVec 8) (os : BitVec 8)
  /-- GZ_XLEN (R601, R203): the extra-field length. -/
  | gzXlen (xlen : BitVec 16)
  /-- GZ_EXTRA (R602, R203): one extra-field byte. -/
  | gzExtra (b : BitVec 8)
  /-- GZ_NAME (R603, R203): one byte of the null-terminated name. -/
  | gzName (b : BitVec 8)
  /-- GZ_COMMENT (R604, R203): one byte of the null-terminated comment. -/
  | gzComment (b : BitVec 8)
  /-- GZ_HCRC (R605, R203): the header CRC field. -/
  | gzHcrc (h : BitVec 16)
  /-- BLK_STORED (R351, R204): block header, BTYPE 00. -/
  | blkStored (bfinal : Bool)
  /-- BLK_FIXED (R352, R204): block header, BTYPE 01. -/
  | blkFixed (bfinal : Bool)
  /-- BLK_DYNAMIC (R353, R204): block header, BTYPE 10. -/
  | blkDynamic (bfinal : Bool)
  /-- BLK_RESERVED (R354, R204): block header, BTYPE 11. -/
  | blkReserved (bfinal : Bool)
  /-- STORED_LEN (R355, R205): LEN and NLEN of a stored block. -/
  | storedLen (len : BitVec 16) (nlen : BitVec 16)
  /-- STORED_COPY (R356, R205): one data byte of a stored block. -/
  | storedCopy (b : BitVec 8)
  /-- DYN_HDR (R420, R206): the dynamic header fields. -/
  | dynHdr (hlit : BitVec 5) (hdist : BitVec 5) (hclen : BitVec 4)
  /-- DYN_CLLENS (R421, R207): the CLL fields in order of arrival. -/
  | dynCllens (cll : List (BitVec 3))
  /-- CL_0 (R423, R216): code-length symbol 0. -/
  | cl0
  /-- CL_1 (R423, R216): code-length symbol 1. -/
  | cl1
  /-- CL_2 (R423, R216): code-length symbol 2. -/
  | cl2
  /-- CL_3 (R423, R216): code-length symbol 3. -/
  | cl3
  /-- CL_4 (R423, R216): code-length symbol 4. -/
  | cl4
  /-- CL_5 (R423, R216): code-length symbol 5. -/
  | cl5
  /-- CL_6 (R423, R216): code-length symbol 6. -/
  | cl6
  /-- CL_7 (R423, R216): code-length symbol 7. -/
  | cl7
  /-- CL_8 (R423, R216): code-length symbol 8. -/
  | cl8
  /-- CL_9 (R423, R216): code-length symbol 9. -/
  | cl9
  /-- CL_10 (R423, R216): code-length symbol 10. -/
  | cl10
  /-- CL_11 (R423, R216): code-length symbol 11. -/
  | cl11
  /-- CL_12 (R423, R216): code-length symbol 12. -/
  | cl12
  /-- CL_13 (R423, R216): code-length symbol 13. -/
  | cl13
  /-- CL_14 (R423, R216): code-length symbol 14. -/
  | cl14
  /-- CL_15 (R423, R216): code-length symbol 15. -/
  | cl15
  /-- CL_16 (R424, R216): repeat the previous length. -/
  | cl16 (rep : BitVec 2)
  /-- CL_17 (R425, R216): a short run of zero lengths. -/
  | cl17 (rep : BitVec 3)
  /-- CL_18 (R426, R216): a long run of zero lengths. -/
  | cl18 (rep : BitVec 7)
  /-- LIT (R451, R214): LL symbols 0 to 255. -/
  | lit (b : BitVec 8)
  /-- EOB (R452, R214): LL symbol 256. -/
  | eob
  /-- LEN_257 (R460, R220): LL symbol 257, base length 3, 0 extra bits. -/
  | len257
  /-- LEN_258 (R461, R220): LL symbol 258, base length 4, 0 extra bits. -/
  | len258
  /-- LEN_259 (R462, R220): LL symbol 259, base length 5, 0 extra bits. -/
  | len259
  /-- LEN_260 (R463, R220): LL symbol 260, base length 6, 0 extra bits. -/
  | len260
  /-- LEN_261 (R464, R220): LL symbol 261, base length 7, 0 extra bits. -/
  | len261
  /-- LEN_262 (R465, R220): LL symbol 262, base length 8, 0 extra bits. -/
  | len262
  /-- LEN_263 (R466, R220): LL symbol 263, base length 9, 0 extra bits. -/
  | len263
  /-- LEN_264 (R467, R220): LL symbol 264, base length 10, 0 extra bits. -/
  | len264
  /-- LEN_265 (R468, R220): LL symbol 265, base length 11, 1 extra bits. -/
  | len265 (lx : BitVec 1)
  /-- LEN_266 (R469, R220): LL symbol 266, base length 13, 1 extra bits. -/
  | len266 (lx : BitVec 1)
  /-- LEN_267 (R470, R220): LL symbol 267, base length 15, 1 extra bits. -/
  | len267 (lx : BitVec 1)
  /-- LEN_268 (R471, R220): LL symbol 268, base length 17, 1 extra bits. -/
  | len268 (lx : BitVec 1)
  /-- LEN_269 (R472, R220): LL symbol 269, base length 19, 2 extra bits. -/
  | len269 (lx : BitVec 2)
  /-- LEN_270 (R473, R220): LL symbol 270, base length 23, 2 extra bits. -/
  | len270 (lx : BitVec 2)
  /-- LEN_271 (R474, R220): LL symbol 271, base length 27, 2 extra bits. -/
  | len271 (lx : BitVec 2)
  /-- LEN_272 (R475, R220): LL symbol 272, base length 31, 2 extra bits. -/
  | len272 (lx : BitVec 2)
  /-- LEN_273 (R476, R220): LL symbol 273, base length 35, 3 extra bits. -/
  | len273 (lx : BitVec 3)
  /-- LEN_274 (R477, R220): LL symbol 274, base length 43, 3 extra bits. -/
  | len274 (lx : BitVec 3)
  /-- LEN_275 (R478, R220): LL symbol 275, base length 51, 3 extra bits. -/
  | len275 (lx : BitVec 3)
  /-- LEN_276 (R479, R220): LL symbol 276, base length 59, 3 extra bits. -/
  | len276 (lx : BitVec 3)
  /-- LEN_277 (R480, R220): LL symbol 277, base length 67, 4 extra bits. -/
  | len277 (lx : BitVec 4)
  /-- LEN_278 (R481, R220): LL symbol 278, base length 83, 4 extra bits. -/
  | len278 (lx : BitVec 4)
  /-- LEN_279 (R482, R220): LL symbol 279, base length 99, 4 extra bits. -/
  | len279 (lx : BitVec 4)
  /-- LEN_280 (R483, R220): LL symbol 280, base length 115, 4 extra bits. -/
  | len280 (lx : BitVec 4)
  /-- LEN_281 (R484, R220): LL symbol 281, base length 131, 5 extra bits. -/
  | len281 (lx : BitVec 5)
  /-- LEN_282 (R485, R220): LL symbol 282, base length 163, 5 extra bits. -/
  | len282 (lx : BitVec 5)
  /-- LEN_283 (R486, R220): LL symbol 283, base length 195, 5 extra bits. -/
  | len283 (lx : BitVec 5)
  /-- LEN_284 (R487, R220): LL symbol 284, base length 227, 5 extra bits. -/
  | len284 (lx : BitVec 5)
  /-- LEN_285 (R488, R220): LL symbol 285, base length 258, 0 extra bits. -/
  | len285
  /-- LL_286 (R520): LL symbol 286, invalid. -/
  | ll286
  /-- LL_287 (R521): LL symbol 287, invalid. -/
  | ll287
  /-- DIST_0 (R490, R221): D symbol 0, base distance 1, 0 extra bits. -/
  | dist0
  /-- DIST_1 (R491, R221): D symbol 1, base distance 2, 0 extra bits. -/
  | dist1
  /-- DIST_2 (R492, R221): D symbol 2, base distance 3, 0 extra bits. -/
  | dist2
  /-- DIST_3 (R493, R221): D symbol 3, base distance 4, 0 extra bits. -/
  | dist3
  /-- DIST_4 (R494, R221): D symbol 4, base distance 5, 1 extra bits. -/
  | dist4 (dx : BitVec 1)
  /-- DIST_5 (R495, R221): D symbol 5, base distance 7, 1 extra bits. -/
  | dist5 (dx : BitVec 1)
  /-- DIST_6 (R496, R221): D symbol 6, base distance 9, 2 extra bits. -/
  | dist6 (dx : BitVec 2)
  /-- DIST_7 (R497, R221): D symbol 7, base distance 13, 2 extra bits. -/
  | dist7 (dx : BitVec 2)
  /-- DIST_8 (R498, R221): D symbol 8, base distance 17, 3 extra bits. -/
  | dist8 (dx : BitVec 3)
  /-- DIST_9 (R499, R221): D symbol 9, base distance 25, 3 extra bits. -/
  | dist9 (dx : BitVec 3)
  /-- DIST_10 (R500, R221): D symbol 10, base distance 33, 4 extra bits. -/
  | dist10 (dx : BitVec 4)
  /-- DIST_11 (R501, R221): D symbol 11, base distance 49, 4 extra bits. -/
  | dist11 (dx : BitVec 4)
  /-- DIST_12 (R502, R221): D symbol 12, base distance 65, 5 extra bits. -/
  | dist12 (dx : BitVec 5)
  /-- DIST_13 (R503, R221): D symbol 13, base distance 97, 5 extra bits. -/
  | dist13 (dx : BitVec 5)
  /-- DIST_14 (R504, R221): D symbol 14, base distance 129, 6 extra bits. -/
  | dist14 (dx : BitVec 6)
  /-- DIST_15 (R505, R221): D symbol 15, base distance 193, 6 extra bits. -/
  | dist15 (dx : BitVec 6)
  /-- DIST_16 (R506, R221): D symbol 16, base distance 257, 7 extra bits. -/
  | dist16 (dx : BitVec 7)
  /-- DIST_17 (R507, R221): D symbol 17, base distance 385, 7 extra bits. -/
  | dist17 (dx : BitVec 7)
  /-- DIST_18 (R508, R221): D symbol 18, base distance 513, 8 extra bits. -/
  | dist18 (dx : BitVec 8)
  /-- DIST_19 (R509, R221): D symbol 19, base distance 769, 8 extra bits. -/
  | dist19 (dx : BitVec 8)
  /-- DIST_20 (R510, R221): D symbol 20, base distance 1025, 9 extra bits. -/
  | dist20 (dx : BitVec 9)
  /-- DIST_21 (R511, R221): D symbol 21, base distance 1537, 9 extra bits. -/
  | dist21 (dx : BitVec 9)
  /-- DIST_22 (R512, R221): D symbol 22, base distance 2049, 10 extra bits. -/
  | dist22 (dx : BitVec 10)
  /-- DIST_23 (R513, R221): D symbol 23, base distance 3073, 10 extra bits. -/
  | dist23 (dx : BitVec 10)
  /-- DIST_24 (R514, R221): D symbol 24, base distance 4097, 11 extra bits. -/
  | dist24 (dx : BitVec 11)
  /-- DIST_25 (R515, R221): D symbol 25, base distance 6145, 11 extra bits. -/
  | dist25 (dx : BitVec 11)
  /-- DIST_26 (R516, R221): D symbol 26, base distance 8193, 12 extra bits. -/
  | dist26 (dx : BitVec 12)
  /-- DIST_27 (R517, R221): D symbol 27, base distance 12289, 12 extra bits. -/
  | dist27 (dx : BitVec 12)
  /-- DIST_28 (R518, R221): D symbol 28, base distance 16385, 13 extra bits. -/
  | dist28 (dx : BitVec 13)
  /-- DIST_29 (R519, R221): D symbol 29, base distance 24577, 13 extra bits. -/
  | dist29 (dx : BitVec 13)
  /-- D_30 (R522): D symbol 30, invalid. -/
  | d30
  /-- D_31 (R523): D symbol 31, invalid. -/
  | d31
  /-- GZ_TRAILER (R620, R211): the trailer fields. -/
  | gzTrailer (crc : BitVec 32) (isize : BitVec 32)
  /-- START (R653, R652): a CTRL write with bit 0 set and bit 1 clear, the value written. -/
  | start (v : BitVec 32)
  /-- SOFT_RESET (R654, R652): a CTRL write with bit 1 set, the value written. -/
  | softReset (v : BitVec 32)
  /-- RegWrite (R652): a register write that is no command. -/
  | regWrite (off : BitVec 6) (v : BitVec 32)
  /-- RegRead (R651): a register read. -/
  | regRead (off : BitVec 6)
  /-- PushByte (R655): one input byte offered by the host. -/
  | pushByte (b : BitVec 8)
  /-- EndInput (R657): the host declares the end of input. -/
  | endInput
  /-- OutAccept (R662): the host takes the offered output byte. -/
  | outAccept
  /-- HardReset (R750): the reset line. -/
  | hardReset
  deriving DecidableEq, Repr

end Sys2Proof
end

