-- ==== Sys2Proof/WellFormed.lean ====
section
/-! DEFINITION. Which instruction terms the encoding admits. Every operand field has its own width in the syntax, so
only a few rows need a check: the count of CLL fields (30_encoding.md R207, R213), the command bits of a CTRL write
(30_encoding.md R242, 46_host_interface.md R652 to R654) and the alignment of a register offset (20_memory.md R157). -/

namespace Sys2Proof

/-- A register offset is a multiple of 4 (R157); its 6 bits keep it inside the 64-byte block (R59). -/
def alignedOffset (off : BitVec 6) : Bool := off.toNat % 4 == 0

/-- The terms an encoding exists for. -/
def Instr.wf : Instr → Bool
  | .dynCllens cll => 4 ≤ cll.length && cll.length ≤ 19
  | .start v => v.getLsbD 0 && !v.getLsbD 1
  | .softReset v => v.getLsbD 1
  | .regWrite off v => alignedOffset off && !(off == 0 && (v.getLsbD 0 || v.getLsbD 1))
  | .regRead off => alignedOffset off
  | _ => true

end Sys2Proof
end

