-- ==== Sys2Proof/Decode.lean ====
section
/-! DEFINITION. The decoder and the encoder of the input stream and of the host's transfers. The decoder is pure: it
reads elements from a cursor, which is the bit_unpacker's position (40_bit_unpacker.md) with the bytes not yet pulled,
and says what it read, what it had captured when it could not go on, and where the cursor then stands (00_scope.md R18).
The encoder writes the same formats from the same tables (30_encoding.md R200 to R211; Huffman codes by 42_huffman.md
R402). -/

namespace Sys2Proof

/-! ### The bit unpacker -/

/-- The bit_unpacker's position (R51, R93): the last byte pulled, how many of its bits are consumed (8 when no bit is
buffered, R307), and the presented bytes not yet pulled. -/
structure Cursor where
  bitbuf : Byte
  bitpos : BitVec 4
  rest   : List Byte
  deriving DecidableEq, Repr

/-- The two calls of a primitive that the spec gives no meaning (R155 and R305; 93_implementation_defined.md U6, U7). -/
inductive ReadFault where
  | unalignedByte
  | tooWide
  deriving DecidableEq, Repr

/-- What reading answers: a value with the cursor after it, or the cursor at which a byte was needed and none was left
(R300), or a call without meaning. -/
inductive Read (α : Type) where
  | ok (a : α) (c : Cursor)
  | short (c : Cursor)
  | bad (f : ReadFault)
  deriving Repr

/-- Read on from where a read ended. -/
def Read.bind {α β : Type} (r : Read α) (f : α → Cursor → Read β) : Read β :=
  match r with
  | .ok a c => f a c
  | .short c => .short c
  | .bad e => .bad e

/-- PullByte (R300): the next presented byte. -/
def pullByte (c : Cursor) : Read Byte :=
  match c.rest with
  | [] => .short c
  | b :: r => .ok b { c with rest := r }

/-- The first half of ReadBit (R302): pull a byte when no bit is buffered, on demand only (R301). -/
def refill (c : Cursor) : Read Unit :=
  if c.bitpos = 8 then (pullByte c).bind fun b c' => .ok () { c' with bitbuf := b, bitpos := 0 }
  else .ok () c

/-- ReadBit (R302): bits of a byte are taken from bit 0 up (R150). -/
def readBit (c : Cursor) : Read Bool :=
  (refill c).bind fun _ c' => .ok (c'.bitbuf.getLsbD c'.bitpos.toNat) { c' with bitpos := c'.bitpos + 1 }

/-- The loop of ReadBits (R303): the first bit read is bit 0 of the value (R151). -/
def readBitsLoop : (n : Nat) → Cursor → Read (BitVec n)
  | 0, c => .ok 0#0 c
  | n + 1, c => (readBit c).bind fun b c' => (readBitsLoop n c').bind fun v c'' => .ok (v.concat b) c''

/-- ReadBits(n) (R303), for n up to 16 (R13; U7 for a larger one). -/
def readBits (n : Nat) (c : Cursor) : Read (BitVec n) :=
  if n ≤ Config.maxReadBits then readBitsLoop n c else .bad .tooWide

/-- AlignToByte (R304). -/
def alignToByte (c : Cursor) : Cursor := { c with bitpos := 8 }

/-- ReadByte (R305): it needs the cursor at a byte boundary (R155). -/
def readByte (c : Cursor) : Read Byte :=
  if c.bitpos = 8 then pullByte c else .bad .unalignedByte

/-- ReadU16LE (R306, R152). -/
def readU16 (c : Cursor) : Read (BitVec 16) :=
  (readByte c).bind fun b0 c0 => (readByte c0).bind fun b1 c1 => .ok (b1 ++ b0) c1

/-- ReadU32LE (R306, R152). -/
def readU32 (c : Cursor) : Read Word :=
  (readU16 c).bind fun lo c0 => (readU16 c0).bind fun hi c1 => .ok (hi ++ lo) c1

/-! ### Huffman tables -/

/-- A table of R400: `counts` lists how many symbols have length 1, 2, .. maxbits, and `syms` the used symbols by
length and, within one length, by value. -/
structure HuffTable where
  counts : List Nat
  syms   : List Nat
  deriving DecidableEq, Repr

/-- The symbols that have code length `l`, in increasing order (R400). -/
def symbolsOfLength (lens : List Nat) (l : Nat) : List Nat :=
  lens.zipIdx.filterMap fun p => if p.1 = l then some p.2 else none

/-- The table of Build (R400, R401). -/
def buildTable (lens : List Nat) (maxbits : Nat) : HuffTable :=
  { counts := (List.range' 1 maxbits).map fun l => lens.count l
    syms := (List.range' 1 maxbits).flatMap fun l => symbolsOfLength lens l }

/-- The loop of Build's verdict (R401): `left` codes of the current length are still free. -/
def oversubLoop (left : Nat) : List Nat → Bool
  | [] => false
  | n :: rest => if 2 * left < n then true else oversubLoop (2 * left - n) rest

/-- Build's verdict OVERSUB (R401, R403). -/
def oversubscribed (lens : List Nat) (maxbits : Nat) : Bool :=
  oversubLoop 1 ((List.range' 1 maxbits).map fun l => lens.count l)

/-- The loop of Decode (R404), one turn a code length: `none` when the bits read are no code of the table. -/
def huffLoop (syms : List Nat) : (counts : List Nat) → (code first index : Nat) → Cursor → Read (Option Nat)
  | [], _, _, _, c => .ok none c
  | n :: rest, code, first, index, c =>
    (readBit c).bind fun b c' =>
      let code := code ||| b.toNat
      if code - first < n then .ok (syms[index + (code - first)]?) c'
      else huffLoop syms rest (code <<< 1) ((first + n) <<< 1) (index + n) c'

/-- Decode(T, ..) (R404): the first bit read is the code's most significant bit (R151). -/
def huffDecode (t : HuffTable) (c : Cursor) : Read (Option Nat) := huffLoop t.syms t.counts 0 0 0 c

/-- next_code of R402 at its start: the first code of length `l`. -/
def firstCode (lens : List Nat) : Nat → Nat
  | 0 => 0
  | l + 1 => (firstCode lens l + if l = 0 then 0 else lens.count l) <<< 1

/-- code(s) of R402, as a number of `lens[s]` bits. -/
def codeOf (lens : List Nat) (s : Nat) : Nat :=
  firstCode lens (lens.getD s 0) + (lens.take s).count (lens.getD s 0)

/-- The lowest `l` bits of a number, the most significant first. -/
def msbBits : Nat → Nat → List Bool
  | 0, _ => []
  | l + 1, v => v.testBit l :: msbBits l v

/-- The stream bits that carry symbol `s`: its code, most significant bit first (R402, R404). -/
def codeBits (lens : List Nat) (s : Nat) : List Bool := msbBits (lens.getD s 0) (codeOf lens s)

/-- The code lengths of T_LL_FIXED (R410). -/
def fixedLlLens : List Nat :=
  List.replicate 144 8 ++ List.replicate 112 9 ++ List.replicate 24 7 ++ List.replicate 8 8

/-- The code lengths of T_D_FIXED (R411). -/
def fixedDLens : List Nat := List.replicate 32 5

/-! ### The symbol tables -/

/-- ORDER of R207 and R421. -/
def clOrder : List Nat := [16, 17, 18, 0, 8, 7, 9, 6, 10, 5, 11, 4, 12, 3, 13, 2, 14, 1, 15]

/-- LEXT of R220, from symbol 257. -/
def lengthExtra : List Nat :=
  [0, 0, 0, 0, 0, 0, 0, 0, 1, 1, 1, 1, 2, 2, 2, 2, 3, 3, 3, 3, 4, 4, 4, 4, 5, 5, 5, 5, 0]

/-- DEXT of R221, from symbol 0. -/
def distExtra : List Nat :=
  [0, 0, 0, 0, 1, 1, 2, 2, 3, 3, 4, 4, 5, 5, 6, 6, 7, 7, 8, 8, 9, 9, 10, 10, 11, 11, 12, 12, 13, 13]

/-- The instruction of each length symbol from 257, from the value of its extra bits (R209, R214, R220). -/
def lengthInstrs : List (Nat → Instr) := [
  fun _ => .len257,
  fun _ => .len258,
  fun _ => .len259,
  fun _ => .len260,
  fun _ => .len261,
  fun _ => .len262,
  fun _ => .len263,
  fun _ => .len264,
  fun x => .len265 (BitVec.ofNat 1 x),
  fun x => .len266 (BitVec.ofNat 1 x),
  fun x => .len267 (BitVec.ofNat 1 x),
  fun x => .len268 (BitVec.ofNat 1 x),
  fun x => .len269 (BitVec.ofNat 2 x),
  fun x => .len270 (BitVec.ofNat 2 x),
  fun x => .len271 (BitVec.ofNat 2 x),
  fun x => .len272 (BitVec.ofNat 2 x),
  fun x => .len273 (BitVec.ofNat 3 x),
  fun x => .len274 (BitVec.ofNat 3 x),
  fun x => .len275 (BitVec.ofNat 3 x),
  fun x => .len276 (BitVec.ofNat 3 x),
  fun x => .len277 (BitVec.ofNat 4 x),
  fun x => .len278 (BitVec.ofNat 4 x),
  fun x => .len279 (BitVec.ofNat 4 x),
  fun x => .len280 (BitVec.ofNat 4 x),
  fun x => .len281 (BitVec.ofNat 5 x),
  fun x => .len282 (BitVec.ofNat 5 x),
  fun x => .len283 (BitVec.ofNat 5 x),
  fun x => .len284 (BitVec.ofNat 5 x),
  fun _ => .len285]

/-- The instruction of each distance symbol, from the value of its extra bits (R210, R215, R221). -/
def distInstrs : List (Nat → Instr) := [
  fun _ => .dist0,
  fun _ => .dist1,
  fun _ => .dist2,
  fun _ => .dist3,
  fun x => .dist4 (BitVec.ofNat 1 x),
  fun x => .dist5 (BitVec.ofNat 1 x),
  fun x => .dist6 (BitVec.ofNat 2 x),
  fun x => .dist7 (BitVec.ofNat 2 x),
  fun x => .dist8 (BitVec.ofNat 3 x),
  fun x => .dist9 (BitVec.ofNat 3 x),
  fun x => .dist10 (BitVec.ofNat 4 x),
  fun x => .dist11 (BitVec.ofNat 4 x),
  fun x => .dist12 (BitVec.ofNat 5 x),
  fun x => .dist13 (BitVec.ofNat 5 x),
  fun x => .dist14 (BitVec.ofNat 6 x),
  fun x => .dist15 (BitVec.ofNat 6 x),
  fun x => .dist16 (BitVec.ofNat 7 x),
  fun x => .dist17 (BitVec.ofNat 7 x),
  fun x => .dist18 (BitVec.ofNat 8 x),
  fun x => .dist19 (BitVec.ofNat 8 x),
  fun x => .dist20 (BitVec.ofNat 9 x),
  fun x => .dist21 (BitVec.ofNat 9 x),
  fun x => .dist22 (BitVec.ofNat 10 x),
  fun x => .dist23 (BitVec.ofNat 10 x),
  fun x => .dist24 (BitVec.ofNat 11 x),
  fun x => .dist25 (BitVec.ofNat 11 x),
  fun x => .dist26 (BitVec.ofNat 12 x),
  fun x => .dist27 (BitVec.ofNat 12 x),
  fun x => .dist28 (BitVec.ofNat 13 x),
  fun x => .dist29 (BitVec.ofNat 13 x),
  fun _ => .d30,
  fun _ => .d31]

/-- The instruction of each code-length symbol, from the value of its extra bits (R208, R216). -/
def clInstrs : List (Nat → Instr) := [
  fun _ => .cl0,
  fun _ => .cl1,
  fun _ => .cl2,
  fun _ => .cl3,
  fun _ => .cl4,
  fun _ => .cl5,
  fun _ => .cl6,
  fun _ => .cl7,
  fun _ => .cl8,
  fun _ => .cl9,
  fun _ => .cl10,
  fun _ => .cl11,
  fun _ => .cl12,
  fun _ => .cl13,
  fun _ => .cl14,
  fun _ => .cl15,
  fun x => .cl16 (BitVec.ofNat 2 x),
  fun x => .cl17 (BitVec.ofNat 3 x),
  fun x => .cl18 (BitVec.ofNat 7 x)]

/-- How many extra bits follow a code-length symbol (R208). -/
def clExtra (c : Nat) : Nat := if c = 16 then 2 else if c = 17 then 3 else if c = 18 then 7 else 0

/-- The instruction of a block header (R204, R217). -/
def blockInstr (v : BitVec 3) : Instr :=
  match v.getLsbD 2, v.getLsbD 1 with
  | false, false => .blkStored (v.getLsbD 0)
  | false, true => .blkFixed (v.getLsbD 0)
  | true, false => .blkDynamic (v.getLsbD 0)
  | true, true => .blkReserved (v.getLsbD 0)

/-! ### Elements -/

/-- Which element is read next, with the code lengths it is read by: what the phase and the current tables give
(R52, R56, R212). -/
inductive Expect where
  | gzFixed
  | gzXlen
  | gzExtra
  | gzName
  | gzComment
  | gzHcrc
  | blkHdr
  | storedLen
  | storedCopy
  | dynHdr
  | dynCllens (hclen : Nat)
  | clSym (cl : List Nat)
  | llSym (ll d : List Nat)
  | dSym (d : List Nat)
  | trailer
  deriving DecidableEq, Repr

/-- The fields a step had already written when it could not read on; they stay written (R18, R705). -/
inductive Capture where
  | nothing
  | hdrCm (cm : Byte)
  | hdrFlg (flg : Byte)
  | hdrMtime (flg : Byte) (mtime : Word)
  | hdrXfl (flg : Byte) (mtime : Word) (xfl : Byte)
  | hlit (h : BitVec 5)
  | hdist (h d : BitVec 5)
  | clLens (cll : List (BitVec 3))
  | trlCrc (crc : Word)
  deriving DecidableEq, Repr

/-- What the decoder answers: the instructions of one whole element (two for a length symbol with its distance symbol,
R209), an encoding rejected by the name of the error it raises (R230), the end of the presented input inside the
element, or a read the spec gives no meaning. -/
inductive Decoded where
  | elem (is : List Instr) (c : Cursor)
  | illegal (e : Err) (k : Capture) (c : Cursor)
  | short (k : Capture) (c : Cursor)
  | bad (f : ReadFault)
  deriving DecidableEq, Repr

/-- Decode on after a read, `k` having been captured before it. -/
def Read.andThen {α : Type} (r : Read α) (k : Capture) (f : α → Cursor → Decoded) : Decoded :=
  match r with
  | .ok a c => f a c
  | .short c => .short k c
  | .bad e => .bad e

/-- GZ_FIXED (R201, R600): the magic is checked after two bytes, the method after the third. -/
def decodeGzFixed (c : Cursor) : Decoded :=
  (readByte c).andThen .nothing fun id1 c => (readByte c).andThen .nothing fun id2 c =>
  if id1 ≠ 0x1F ∨ id2 ≠ 0x8B then .illegal .invalidMagic .nothing c else
  (readByte c).andThen .nothing fun cm c =>
  if cm ≠ 8 then .illegal .unsupportedMethod (.hdrCm cm) c else
  (readByte c).andThen (.hdrCm cm) fun flg c =>
  (readU32 c).andThen (.hdrFlg flg) fun mtime c =>
  (readByte c).andThen (.hdrMtime flg mtime) fun xfl c =>
  (readByte c).andThen (.hdrXfl flg mtime xfl) fun os c => .elem [.gzFixed flg mtime xfl os] c

/-- STORED up to its data (R205, R355). -/
def decodeStoredLen (c : Cursor) : Decoded :=
  (readU16 (alignToByte c)).andThen .nothing fun len c =>
  (readU16 c).andThen .nothing fun nlen c => .elem [.storedLen len nlen] c

/-- DYN_HDR (R206, R420). -/
def decodeDynHdr (c : Cursor) : Decoded :=
  (readBits 5 c).andThen .nothing fun hlit c =>
  (readBits 5 c).andThen (.hlit hlit) fun hdist c =>
  (readBits 4 c).andThen (.hdist hlit hdist) fun hclen c => .elem [.dynHdr hlit hdist hclen] c

/-- DYN_CLLENS (R207, R421): `n` more fields, `got` being those read before. -/
def decodeCllens : (n : Nat) → (got : List (BitVec 3)) → Cursor → Decoded
  | 0, got, c => .elem [.dynCllens got] c
  | n + 1, got, c => (readBits 3 c).andThen (.clLens got) fun l c => decodeCllens n (got ++ [l]) c

/-- CL_SYM (R208, R422). -/
def decodeClSym (cl : List Nat) (c : Cursor) : Decoded :=
  (huffDecode (buildTable cl Config.maxBitsCL) c).andThen .nothing fun sym c =>
  match sym.bind (fun s => clInstrs[s]?.map fun f => (clExtra s, f)) with
  | none => .illegal (.corruptBlock .clNocode) .nothing c
  | some (n, f) => (readBits n c).andThen .nothing fun x c => .elem [f x.toNat] c

/-- D_SYM (R210, R453): symbols 30 and 31 have no extra bits (R522, R523). `before` is the length symbol it follows in
the same element. -/
def decodeDSym (before : List Instr) (d : List Nat) (c : Cursor) : Decoded :=
  (huffDecode (buildTable d Config.maxBitsLD) c).andThen .nothing fun sym c =>
  match sym.bind (fun s => distInstrs[s]?.map fun f => (distExtra.getD s 0, f)) with
  | none => .illegal (.corruptBlock .dNocode) .nothing c
  | some (n, f) => (readBits n c).andThen .nothing fun x c => .elem (before ++ [f x.toNat]) c

/-- LL_SYM (R209, R450): a length symbol is followed by its extra bits and a D_SYM in the same element. -/
def decodeLlSym (ll d : List Nat) (c : Cursor) : Decoded :=
  (huffDecode (buildTable ll Config.maxBitsLD) c).andThen .nothing fun sym c =>
  match sym with
  | none => .illegal (.corruptBlock .llNocode) .nothing c
  | some s =>
    if s ≤ 255 then .elem [.lit (BitVec.ofNat 8 s)] c
    else if s = 256 then .elem [.eob] c
    else if s = 286 then .elem [.ll286] c
    else if s = 287 then .elem [.ll287] c
    else match lengthInstrs[s - 257]? with
      | none => .illegal (.corruptBlock .llNocode) .nothing c
      | some f => (readBits (lengthExtra.getD (s - 257) 0) c).andThen .nothing fun x c => decodeDSym [f x.toNat] d c

/-- GZ_TRAILER (R211, R620). -/
def decodeTrailer (c : Cursor) : Decoded :=
  (readU32 (alignToByte c)).andThen .nothing fun crc c =>
  (readU32 c).andThen (.trlCrc crc) fun isize c => .elem [.gzTrailer crc isize] c

/-- The decoder of the input stream, total on any cursor: one element of the kind expected (R200 to R212). -/
def decode (x : Expect) (c : Cursor) : Decoded :=
  match x with
  | .gzFixed => decodeGzFixed c
  | .gzXlen => (readU16 c).andThen .nothing fun v c => .elem [.gzXlen v] c
  | .gzExtra => (readByte c).andThen .nothing fun b c => .elem [.gzExtra b] c
  | .gzName => (readByte c).andThen .nothing fun b c => .elem [.gzName b] c
  | .gzComment => (readByte c).andThen .nothing fun b c => .elem [.gzComment b] c
  | .gzHcrc => (readU16 c).andThen .nothing fun h c => .elem [.gzHcrc h] c
  | .blkHdr => (readBits 3 c).andThen .nothing fun v c => .elem [blockInstr v] c
  | .storedLen => decodeStoredLen c
  | .storedCopy => (readByte c).andThen .nothing fun b c => .elem [.storedCopy b] c
  | .dynHdr => decodeDynHdr c
  | .dynCllens n => decodeCllens n [] c
  | .clSym cl => decodeClSym cl c
  | .llSym ll d => decodeLlSym ll d c
  | .dSym d => decodeDSym [] d c
  | .trailer => decodeTrailer c

/-! ### Host transfers -/

/-- What a signal stands for: a host command, a level of `out_ready`, a register access the spec refuses (R157), or a
bus access outside the register block (R16, R160). -/
inductive HostDecoded where
  | command (i : Instr)
  | outLevel (b : Bool)
  | badAccess
  | elsewhere
  deriving DecidableEq, Repr

/-- RegWrite(off, v) and its two command rows (R242, R652): SOFT_RESET acts first, so a write with both command bits is
its row. -/
def regWriteInstr (off : BitVec 6) (v : Word) : Instr :=
  if off = 0 ∧ v.getLsbD 1 then .softReset v
  else if off = 0 ∧ v.getLsbD 0 then .start v
  else .regWrite off v

/-- The word whose byte lanes are the bytes of a bus access (R154): byte `k` is bits 8k+7 to 8k. -/
def laneWord : List Byte → Word
  | [] => 0
  | b :: l => (laneWord l <<< 8) ||| b.setWidth 32

/-- A bus access of `n` bytes at `addr`, by its offset in the block (R157, R160); `base` is REG_BASE. -/
def decodeAccess (base addr n : Nat) (f : BitVec 6 → Instr) : HostDecoded :=
  if addr < base ∨ base + Config.regBlockBytes ≤ addr then .elsewhere
  else if n = 4 ∧ (addr - base) % 4 = 0 then .command (f (BitVec.ofNat 6 (addr - base)))
  else .badAccess

/-- A register transfer at a block offset (R157). -/
def decodeOffset (off : BitVec 6) (i : Instr) : HostDecoded :=
  if alignedOffset off then .command i else .badAccess

/-- The decoder of the host's transfers (R242, R650). -/
def decodeHost (s : Signal) : HostDecoded :=
  match s with
  | .rst => .command .hardReset
  | .regWrite off v => decodeOffset off (regWriteInstr off v)
  | .regRead off => decodeOffset off (.regRead off)
  | .memWrite addr data => decodeAccess Config.regBase addr data.length fun off => regWriteInstr off (laneWord data)
  | .memRead addr n => decodeAccess Config.regBase addr n .regRead
  | .inByte b => .command (.pushByte b)
  | .inEnd => .command .endInput
  | .outTransfer => .command .outAccept
  | .outReady b => .outLevel b

/-! ### The encoder -/

/-- The bits of a field, bit 0 first (R151). -/
def fieldBits {n : Nat} (v : BitVec n) : List Bool := (List.range n).map fun i => v.getLsbD i

/-- The format of each instruction's row in the opcode table (R242). -/
def Instr.format : Instr → Format
  | .gzFixed _ _ _ _ => .gzFixed
  | .gzXlen _ => .gzXlen
  | .gzExtra _ => .gzExtra
  | .gzName _ => .gzName
  | .gzComment _ => .gzComment
  | .gzHcrc _ => .gzHcrc
  | .blkStored _ | .blkFixed _ | .blkDynamic _ | .blkReserved _ => .blkHdr
  | .storedLen _ _ | .storedCopy _ => .stored
  | .dynHdr _ _ _ => .dynHdr
  | .dynCllens _ => .dynCllens
  | .cl0 | .cl1 | .cl2 | .cl3 | .cl4 | .cl5 | .cl6 | .cl7 | .cl8 | .cl9 | .cl10 | .cl11 | .cl12 | .cl13
  | .cl14 | .cl15 | .cl16 _ | .cl17 _ | .cl18 _ => .clSym
  | .lit _ | .eob | .len257 | .len258 | .len259 | .len260 | .len261 | .len262 | .len263 | .len264
  | .len265 _ | .len266 _ | .len267 _ | .len268 _ | .len269 _ | .len270 _ | .len271 _ | .len272 _
  | .len273 _ | .len274 _ | .len275 _ | .len276 _ | .len277 _ | .len278 _ | .len279 _ | .len280 _
  | .len281 _ | .len282 _ | .len283 _ | .len284 _ | .len285 | .ll286 | .ll287 => .llSym
  | .dist0 | .dist1 | .dist2 | .dist3 | .dist4 _ | .dist5 _ | .dist6 _ | .dist7 _ | .dist8 _ | .dist9 _
  | .dist10 _ | .dist11 _ | .dist12 _ | .dist13 _ | .dist14 _ | .dist15 _ | .dist16 _ | .dist17 _
  | .dist18 _ | .dist19 _ | .dist20 _ | .dist21 _ | .dist22 _ | .dist23 _ | .dist24 _ | .dist25 _
  | .dist26 _ | .dist27 _ | .dist28 _ | .dist29 _ | .d30 | .d31 => .dSym
  | .gzTrailer _ _ => .gzTrailer
  | .start _ | .softReset _ | .regWrite _ _ | .regRead _ | .pushByte _ | .endInput | .outAccept | .hardReset => .host

/-- The selecting value of R242: a block header's 3 bits, a Huffman symbol, the first three header bytes, the value of
a CTRL write; 0 for the rows that the phase or the port selects. -/
def Instr.selector : Instr → Nat
  | .gzFixed _ _ _ _ => 0x088B1F
  | .blkStored f => f.toNat
  | .blkFixed f => 2 + f.toNat
  | .blkDynamic f => 4 + f.toNat
  | .blkReserved f => 6 + f.toNat
  | .lit b => b.toNat
  | .start v | .softReset v => v.toNat
  | .cl0 => 0
  | .cl1 => 1
  | .cl2 => 2
  | .cl3 => 3
  | .cl4 => 4
  | .cl5 => 5
  | .cl6 => 6
  | .cl7 => 7
  | .cl8 => 8
  | .cl9 => 9
  | .cl10 => 10
  | .cl11 => 11
  | .cl12 => 12
  | .cl13 => 13
  | .cl14 => 14
  | .cl15 => 15
  | .cl16 _ => 16
  | .cl17 _ => 17
  | .cl18 _ => 18
  | .eob => 256
  | .len257 => 257
  | .len258 => 258
  | .len259 => 259
  | .len260 => 260
  | .len261 => 261
  | .len262 => 262
  | .len263 => 263
  | .len264 => 264
  | .len265 _ => 265
  | .len266 _ => 266
  | .len267 _ => 267
  | .len268 _ => 268
  | .len269 _ => 269
  | .len270 _ => 270
  | .len271 _ => 271
  | .len272 _ => 272
  | .len273 _ => 273
  | .len274 _ => 274
  | .len275 _ => 275
  | .len276 _ => 276
  | .len277 _ => 277
  | .len278 _ => 278
  | .len279 _ => 279
  | .len280 _ => 280
  | .len281 _ => 281
  | .len282 _ => 282
  | .len283 _ => 283
  | .len284 _ => 284
  | .len285 => 285
  | .ll286 => 286
  | .ll287 => 287
  | .dist0 => 0
  | .dist1 => 1
  | .dist2 => 2
  | .dist3 => 3
  | .dist4 _ => 4
  | .dist5 _ => 5
  | .dist6 _ => 6
  | .dist7 _ => 7
  | .dist8 _ => 8
  | .dist9 _ => 9
  | .dist10 _ => 10
  | .dist11 _ => 11
  | .dist12 _ => 12
  | .dist13 _ => 13
  | .dist14 _ => 14
  | .dist15 _ => 15
  | .dist16 _ => 16
  | .dist17 _ => 17
  | .dist18 _ => 18
  | .dist19 _ => 19
  | .dist20 _ => 20
  | .dist21 _ => 21
  | .dist22 _ => 22
  | .dist23 _ => 23
  | .dist24 _ => 24
  | .dist25 _ => 25
  | .dist26 _ => 26
  | .dist27 _ => 27
  | .dist28 _ => 28
  | .dist29 _ => 29
  | .d30 => 30
  | .d31 => 31
  | .gzXlen _ | .gzExtra _ | .gzName _ | .gzComment _ | .gzHcrc _ | .storedLen _ _ | .storedCopy _ | .dynHdr _ _ _
  | .dynCllens _ | .gzTrailer _ _ | .regWrite _ _ | .regRead _ | .pushByte _ | .endInput | .outAccept | .hardReset => 0

/-- The mask and the match value of each instruction's row in the opcode table (R242): the row is the one whose match
value the selecting value has under its mask. -/
def Instr.tableRow : Instr → Nat × Nat
  | .gzFixed _ _ _ _ => (0xFFFFFF, 0x88B1F)
  | .blkStored _ => (0x6, 0x0)
  | .blkFixed _ => (0x6, 0x2)
  | .blkDynamic _ => (0x6, 0x4)
  | .blkReserved _ => (0x6, 0x6)
  | .cl0 => (0x1F, 0x0)
  | .cl1 => (0x1F, 0x1)
  | .cl2 => (0x1F, 0x2)
  | .cl3 => (0x1F, 0x3)
  | .cl4 => (0x1F, 0x4)
  | .cl5 => (0x1F, 0x5)
  | .cl6 => (0x1F, 0x6)
  | .cl7 => (0x1F, 0x7)
  | .cl8 => (0x1F, 0x8)
  | .cl9 => (0x1F, 0x9)
  | .cl10 => (0x1F, 0xA)
  | .cl11 => (0x1F, 0xB)
  | .cl12 => (0x1F, 0xC)
  | .cl13 => (0x1F, 0xD)
  | .cl14 => (0x1F, 0xE)
  | .cl15 => (0x1F, 0xF)
  | .cl16 _ => (0x1F, 0x10)
  | .cl17 _ => (0x1F, 0x11)
  | .cl18 _ => (0x1F, 0x12)
  | .lit _ => (0x100, 0x0)
  | .eob => (0x1FF, 0x100)
  | .len257 => (0x1FF, 0x101)
  | .len258 => (0x1FF, 0x102)
  | .len259 => (0x1FF, 0x103)
  | .len260 => (0x1FF, 0x104)
  | .len261 => (0x1FF, 0x105)
  | .len262 => (0x1FF, 0x106)
  | .len263 => (0x1FF, 0x107)
  | .len264 => (0x1FF, 0x108)
  | .len265 _ => (0x1FF, 0x109)
  | .len266 _ => (0x1FF, 0x10A)
  | .len267 _ => (0x1FF, 0x10B)
  | .len268 _ => (0x1FF, 0x10C)
  | .len269 _ => (0x1FF, 0x10D)
  | .len270 _ => (0x1FF, 0x10E)
  | .len271 _ => (0x1FF, 0x10F)
  | .len272 _ => (0x1FF, 0x110)
  | .len273 _ => (0x1FF, 0x111)
  | .len274 _ => (0x1FF, 0x112)
  | .len275 _ => (0x1FF, 0x113)
  | .len276 _ => (0x1FF, 0x114)
  | .len277 _ => (0x1FF, 0x115)
  | .len278 _ => (0x1FF, 0x116)
  | .len279 _ => (0x1FF, 0x117)
  | .len280 _ => (0x1FF, 0x118)
  | .len281 _ => (0x1FF, 0x119)
  | .len282 _ => (0x1FF, 0x11A)
  | .len283 _ => (0x1FF, 0x11B)
  | .len284 _ => (0x1FF, 0x11C)
  | .len285 => (0x1FF, 0x11D)
  | .ll286 => (0x1FF, 0x11E)
  | .ll287 => (0x1FF, 0x11F)
  | .dist0 => (0x1F, 0x0)
  | .dist1 => (0x1F, 0x1)
  | .dist2 => (0x1F, 0x2)
  | .dist3 => (0x1F, 0x3)
  | .dist4 _ => (0x1F, 0x4)
  | .dist5 _ => (0x1F, 0x5)
  | .dist6 _ => (0x1F, 0x6)
  | .dist7 _ => (0x1F, 0x7)
  | .dist8 _ => (0x1F, 0x8)
  | .dist9 _ => (0x1F, 0x9)
  | .dist10 _ => (0x1F, 0xA)
  | .dist11 _ => (0x1F, 0xB)
  | .dist12 _ => (0x1F, 0xC)
  | .dist13 _ => (0x1F, 0xD)
  | .dist14 _ => (0x1F, 0xE)
  | .dist15 _ => (0x1F, 0xF)
  | .dist16 _ => (0x1F, 0x10)
  | .dist17 _ => (0x1F, 0x11)
  | .dist18 _ => (0x1F, 0x12)
  | .dist19 _ => (0x1F, 0x13)
  | .dist20 _ => (0x1F, 0x14)
  | .dist21 _ => (0x1F, 0x15)
  | .dist22 _ => (0x1F, 0x16)
  | .dist23 _ => (0x1F, 0x17)
  | .dist24 _ => (0x1F, 0x18)
  | .dist25 _ => (0x1F, 0x19)
  | .dist26 _ => (0x1F, 0x1A)
  | .dist27 _ => (0x1F, 0x1B)
  | .dist28 _ => (0x1F, 0x1C)
  | .dist29 _ => (0x1F, 0x1D)
  | .d30 => (0x1F, 0x1E)
  | .d31 => (0x1F, 0x1F)
  | .start _ => (0x1, 0x1)
  | .softReset _ => (0x2, 0x2)
  | .gzXlen _ | .gzExtra _ | .gzName _ | .gzComment _ | .gzHcrc _ | .storedLen _ _ | .storedCopy _ | .dynHdr _ _ _
    | .dynCllens _ | .gzTrailer _ _ | .regWrite _ _ | .regRead _ | .pushByte _ | .endInput | .outAccept |
    .hardReset => (0, 0)

/-- The operand fields that follow the selecting bits in the stream (R201 to R211), in stream order. -/
def Instr.operandBits : Instr → List Bool
  | .gzFixed flg mtime xfl os => fieldBits flg ++ fieldBits mtime ++ fieldBits xfl ++ fieldBits os
  | .gzXlen x => fieldBits x
  | .gzExtra b | .gzName b | .gzComment b | .storedCopy b => fieldBits b
  | .gzHcrc h => fieldBits h
  | .storedLen len nlen => fieldBits len ++ fieldBits nlen
  | .dynHdr hlit hdist hclen => fieldBits hlit ++ fieldBits hdist ++ fieldBits hclen
  | .dynCllens cll => cll.flatMap fieldBits
  | .cl16 r => fieldBits r
  | .cl17 r => fieldBits r
  | .cl18 r => fieldBits r
  | .gzTrailer crc isize => fieldBits crc ++ fieldBits isize
  | .len265 x => fieldBits x
  | .len266 x => fieldBits x
  | .len267 x => fieldBits x
  | .len268 x => fieldBits x
  | .len269 x => fieldBits x
  | .len270 x => fieldBits x
  | .len271 x => fieldBits x
  | .len272 x => fieldBits x
  | .len273 x => fieldBits x
  | .len274 x => fieldBits x
  | .len275 x => fieldBits x
  | .len276 x => fieldBits x
  | .len277 x => fieldBits x
  | .len278 x => fieldBits x
  | .len279 x => fieldBits x
  | .len280 x => fieldBits x
  | .len281 x => fieldBits x
  | .len282 x => fieldBits x
  | .len283 x => fieldBits x
  | .len284 x => fieldBits x
  | .dist4 x => fieldBits x
  | .dist5 x => fieldBits x
  | .dist6 x => fieldBits x
  | .dist7 x => fieldBits x
  | .dist8 x => fieldBits x
  | .dist9 x => fieldBits x
  | .dist10 x => fieldBits x
  | .dist11 x => fieldBits x
  | .dist12 x => fieldBits x
  | .dist13 x => fieldBits x
  | .dist14 x => fieldBits x
  | .dist15 x => fieldBits x
  | .dist16 x => fieldBits x
  | .dist17 x => fieldBits x
  | .dist18 x => fieldBits x
  | .dist19 x => fieldBits x
  | .dist20 x => fieldBits x
  | .dist21 x => fieldBits x
  | .dist22 x => fieldBits x
  | .dist23 x => fieldBits x
  | .dist24 x => fieldBits x
  | .dist25 x => fieldBits x
  | .dist26 x => fieldBits x
  | .dist27 x => fieldBits x
  | .dist28 x => fieldBits x
  | .dist29 x => fieldBits x
  | .cl0 | .cl1 | .cl2 | .cl3 | .cl4 | .cl5 | .cl6 | .cl7 | .cl8 | .cl9 | .cl10 | .cl11 | .cl12 | .cl13
  | .cl14 | .cl15 | .eob | .len257 | .len258 | .len259 | .len260 | .len261 | .len262 | .len263 | .len264
  | .len285 | .ll286 | .ll287 | .dist0 | .dist1 | .dist2 | .dist3 | .d30 | .d31 | .blkStored _ | .blkFixed _
  | .blkDynamic _ | .blkReserved _ | .lit _ | .start _ | .softReset _ | .regWrite _ _ | .regRead _
  | .pushByte _ | .endInput | .outAccept | .hardReset => []

/-- The stream bits of one instruction: its selecting bits, then its operands. The Huffman symbols are written in the
codes of the tables expected (R402); the rows that the phase selects have no selecting bits. -/
def encodeInstr (x : Expect) (i : Instr) : List Bool :=
  (match i.format, x with
    | .gzFixed, _ => fieldBits (BitVec.ofNat 24 i.selector)
    | .blkHdr, _ => fieldBits (BitVec.ofNat 3 i.selector)
    | .clSym, .clSym cl => codeBits cl i.selector
    | .llSym, .llSym ll _ => codeBits ll i.selector
    | .dSym, .llSym _ d => codeBits d i.selector
    | .dSym, .dSym d => codeBits d i.selector
    | _, _ => []) ++ i.operandBits

/-- The stream bits of one element (R200 to R211), after the ALIGN where its format has one. -/
def encode (x : Expect) (is : List Instr) : List Bool := is.flatMap (encodeInstr x)

/-- The transfer that carries a host command (R242, R650); a stream element has none. -/
def encodeHost : Instr → Option Signal
  | .start v | .softReset v => some (.regWrite 0 v)
  | .regWrite off v => some (.regWrite off v)
  | .regRead off => some (.regRead off)
  | .pushByte b => some (.inByte b)
  | .endInput => some .inEnd
  | .outAccept => some .outTransfer
  | .hardReset => some .rst
  | _ => none

/-! ### Laying bits into bytes, and the opcode table's words -/

/-- Eight stream bits as a byte, the first as bit 0 (R200); missing bits are 0. -/
def byteOfBits (l : List Bool) : Byte :=
  BitVec.ofNat 8 (l.foldr (fun b n => 2 * n + b.toNat) 0)

/-- `k` bytes of stream bits; bits past the end are 0 (the padding of R241). -/
def packBytes : (k : Nat) → List Bool → List Byte
  | 0, _ => []
  | k + 1, l => byteOfBits (l.take 8) :: packBytes k (l.drop 8)

/-- The code lengths that decodeTableWord reads a CL symbol by: 5 for each of the 19, so that a symbol's code is its
number. DESIGN CHOICE (notes/assumptions/3.md). -/
def tableClLens : List Nat := List.replicate 19 5

/-- Which element a word of the opcode table is read as. The table numbers the bits of a row's SELECTING VALUE (R242),
whose meaning depends on the row's format, so a word alone can match rows of several formats; the row with the most
bits in its mask is taken, and then the first in the table. DESIGN CHOICE (notes/assumptions/3.md). -/
def tableExpect (nbits w : Nat) : Option (Expect × Nat) :=
  if nbits = 24 ∧ w = 0x088B1F then some (.gzFixed, w)
  else if nbits = 16 then
    if w % 512 < 288 then some (.llSym fixedLlLens fixedDLens, w % 512) else none
  else if nbits = 8 ∨ nbits = 24 ∨ nbits = 32 then
    if w % 32 < 19 then some (.clSym tableClLens, w % 32) else some (.dSym fixedDLens, w % 32)
  else none

/-- The longest element a table word can select, in bytes: a fixed gzip header. -/
def tableWordBytes : Nat := 10

/-- The stream bytes of a table word: its selecting value as the element's format carries it, then zeros. -/
def tableStream (x : Expect) (sel : Nat) : List Byte :=
  packBytes tableWordBytes (match x with
    | .clSym cl => codeBits cl sel
    | .llSym ll _ => codeBits ll sel
    | .dSym d => codeBits d sel
    | _ => fieldBits (BitVec.ofNat 24 sel))

/-- What the decoder reads from a word of the opcode table whose operand bits are 0; the first instruction of the
element. -/
def decodeTableWord (nbits w : Nat) : Option Instr :=
  match tableExpect nbits w with
  | none => none
  | some (x, sel) =>
    match decode x { bitbuf := 0, bitpos := 8, rest := tableStream x sel } with
    | .elem is _ => is.head?
    | _ => none

end Sys2Proof
end

