-- ==== Sys2Proof/Machine/State.lean ====
section
/-! DEFINITION. The machine's state: every field of the record st (10_state.md R55), the port-side state (R57), and the
model's own fields, each marked. Plain data throughout. Also the reasons a step can stop, and the state after reset. -/

namespace Sys2Proof.Machine

/-- Who moves next (10_state.md R99). A schedule is a list of these; where it is empty the engine moves. It is the
input of the machine: every interleaving of host and engine is some schedule. -/
inductive Turn where
  /-- One engine step, if one is enabled. -/
  | engine
  /-- One transfer of the host. -/
  | host (s : Signal)
  /-- The input port's flow control makes `in_ready` able to be 1, or not (R661, 93_implementation_defined.md U10). -/
  | inFlow (b : Bool)
  deriving DecidableEq, Repr

/-- The reasons a step stops with a model fault: uses of a primitive or of an element that the spec says no rule
makes. -/
inductive Fault where
  /-- ReadByte with the bit cursor not at a byte boundary (R155, R305, U6). Raised by a fetch in a byte phase; no state
  that a run reaches raises it (R308). Safe. -/
  | readByteUnaligned
  /-- ReadBits of more than 16 bits (R303, U7). No fetch asks for one. Safe. -/
  | readBitsTooWide
  /-- A distance symbol with no length symbol before it in the step: D_SYM is read only inside the LL_SYM step (R210).
  Raised by the DIST_ and D_ rows when `matchLen` is none; no step reads one so. Safe. -/
  | distanceWithoutLength
  deriving DecidableEq, Repr

/-- The reasons a step is refused. -/
inductive Refusal where
  /-- An instruction that has no meaning yet, by its mnemonic; raised by exec alone. Safe. -/
  | notModelled (mnemonic : String)
  /-- A host register access that is not 32 bits wide at a multiple of 4 (R157, R712, U3); raised by RegRead, RegWrite
  and a bus access. Safe. -/
  | badRegisterAccess
  /-- A host bus access outside the register block (R16, R160): no access to this engine; raised by a bus access. Safe. -/
  | notRegisterBlock
  deriving DecidableEq, Repr

/-- The bytes of a memory that were written: strictly rising addresses, one entry an address. What an unlisted address
reads as is `windowRead` of Machine/Ops.lean. -/
abbrev Memory := List Host.Cell

/-- The machine (10_state.md R55, R57, R99). -/
structure State where
  /-- R52, R55 phase: selects the next step rule. -/
  phase : Phase
  /-- R55, R61 CTRL.RAW. -/
  ctrlRaw : Bool
  /-- R55, R63 CTRL.IRQ_EN. -/
  ctrlIrqEn : Bool
  /-- R55, R74 mode_raw: the framing mode that START latched. -/
  modeRaw : Bool
  /-- R55, R51 ip: the input bytes pulled in the session, unbounded (R53). -/
  ip : Nat
  /-- R55 bitbuf: the last byte pulled for bits. -/
  bitbuf : Byte
  /-- R55, R307 bitpos: how many bits of bitbuf are consumed; 8 when none is buffered. -/
  bitpos : BitVec 4
  /-- R55, R70 bfinal. -/
  bfinal : Bool
  /-- R55, R71 btype. -/
  btype : BitVec 2
  /-- R55, R56 tbl_fixed: the fixed tables are in use. -/
  tblFixed : Bool
  /-- R55 stored_rem: data bytes the stored block still owes. -/
  storedRem : BitVec 16
  /-- R55 xlen_rem: extra-field bytes still to skip. -/
  xlenRem : BitVec 16
  /-- R55 hlit: the LL code-length count. -/
  hlit : BitVec 9
  /-- R55 hdist: the D code-length count. -/
  hdist : BitVec 6
  /-- R55 hclen: the CL code-length count. -/
  hclen : BitVec 5
  /-- R55, R92 cl_lens[0..18]. -/
  clLens : Vector (BitVec 3) 19
  /-- R55, R91 lens[0..315]. -/
  lens : Vector (BitVec 4) 316
  /-- R55 idx: how many code lengths are defined. -/
  idx : BitVec 9
  /-- R55 copy_len: bytes the back-reference still owes. -/
  copyLen : BitVec 9
  /-- R55 copy_dist: the distance of the back-reference. -/
  copyDist : BitVec 16
  /-- R55, R90 W: the sliding window, the bytes written to it. -/
  window : Memory
  /-- R55 wpos: the window index the next byte goes to. -/
  wpos : BitVec 15
  /-- R55, R558 hist: the bytes emitted in the session, saturated at 32768. -/
  hist : BitVec 16
  /-- R55, R610 crc: the running CRC-32, not complemented. -/
  crc : Word
  /-- R55, R611 isize: the bytes emitted modulo 2^32. -/
  isize : Word
  /-- R55, R607 hcrc_acc: the running CRC-32 of the header bytes. -/
  hcrcAcc : Word
  /-- R55, R86 hdr_cm. -/
  hdrCm : Byte
  /-- R55, R86 hdr_flg. -/
  hdrFlg : Byte
  /-- R55, R87 hdr_mtime. -/
  hdrMtime : Word
  /-- R55, R86 hdr_xfl. -/
  hdrXfl : Byte
  /-- R55, R86 hdr_os. -/
  hdrOs : Byte
  /-- R55, R88 hcrc_field. -/
  hcrcField : BitVec 16
  /-- R55, R88 hcrc_calc. -/
  hcrcCalc : BitVec 16
  /-- R55, R82 trl_crc. -/
  trlCrc : Word
  /-- R55, R83 trl_isize. -/
  trlIsize : Word
  /-- R55, R77 err_code. -/
  errCode : BitVec 4
  /-- R55, R78 err_detail. -/
  errDetail : BitVec 8
  /-- R55, R79 err_origin. -/
  errOrigin : Bool
  /-- R55, R72 warn_hcrc. -/
  warnHcrc : Bool
  /-- R55, R73 warn_flg. -/
  warnFlg : Bool
  /-- R57 IN: the bytes presented to the input port in this session. -/
  inBytes : List Byte
  /-- R57, R657 in_end. -/
  inEnd : Bool
  /-- R57 OUT: the bytes the output port has delivered in this session. -/
  outBytes : List Byte
  /-- R57, R662 out_ready, the level the host drives. -/
  outReady : Bool
  /-- R650 reg_rdata: the data of the last register read (notes/assumptions/6.md). -/
  regRdata : Word
  /-- The model's own: the local `len` of LenDist (R453) between a length symbol and the distance symbol of the same
  step; none between steps (notes/assumptions/1.md). -/
  matchLen : Option (BitVec 9)
  /-- The model's own: the flow control level of the input port (U10; notes/assumptions/5.md). -/
  inFlow : Bool
  /-- The model's own: how many free register reads were drawn (U2; notes/assumptions/7.md). -/
  draws : Nat
  /-- The model's own: how many hardware resets the window has seen (U1; notes/assumptions/8.md). -/
  wEpoch : Nat
  /-- The model's own: the turns still to come (R99; notes/assumptions/2.md). -/
  agenda : List Turn
  deriving DecidableEq, Repr

/-- The machine after hardware reset: the reset column of R55, R750 and R752, the empty ports of R750, and the values
notes/assumptions/4.md names for the lines the host drives and for the model's own fields. -/
def State.reset : State where
  phase := .idle
  ctrlRaw := false
  ctrlIrqEn := false
  modeRaw := false
  ip := 0
  bitbuf := 0
  bitpos := 8
  bfinal := false
  btype := 0
  tblFixed := false
  storedRem := 0
  xlenRem := 0
  hlit := 0
  hdist := 0
  hclen := 0
  clLens := Vector.replicate 19 0
  lens := Vector.replicate 316 0
  idx := 0
  copyLen := 0
  copyDist := 0
  window := []
  wpos := 0
  hist := 0
  crc := 0xFFFFFFFF
  isize := 0
  hcrcAcc := 0xFFFFFFFF
  hdrCm := 0
  hdrFlg := 0
  hdrMtime := 0
  hdrXfl := 0
  hdrOs := 0
  hcrcField := 0
  hcrcCalc := 0
  trlCrc := 0
  trlIsize := 0
  errCode := 0
  errDetail := 0
  errOrigin := false
  warnHcrc := false
  warnFlg := false
  inBytes := []
  inEnd := false
  outBytes := []
  outReady := false
  regRdata := 0
  matchLen := none
  inFlow := true
  draws := 0
  wEpoch := 0
  agenda := []

end Sys2Proof.Machine
end

