-- ==== Sys2Proof/Machine/Flags.lean ====
section
/-! DEFINITION. The numeric encodings of phases, errors and details, and every flag and register value the host can
read (10_state.md R58 to R89, 46_host_interface.md R651): the engine has no arithmetic flags. -/

namespace Sys2Proof.Machine

/-- The 5-bit phase encoding of R52 and STATUS.PHASE (R66). -/
def phaseCode : Phase → BitVec 5
  | .idle => 0
  | .gzFixed => 1
  | .gzXlen => 2
  | .gzExtra => 3
  | .gzName => 4
  | .gzComment => 5
  | .gzHcrc => 6
  | .blkHdr => 7
  | .storedLen => 8
  | .storedCopy => 9
  | .dynHdr => 10
  | .dynCllens => 11
  | .dynLens => 12
  | .symbol => 13
  | .copy => 14
  | .trailer => 15
  | .done => 16
  | .error => 17

/-- The error codes of R700. -/
def errorCode : Err → BitVec 4
  | .invalidMagic => 1
  | .unsupportedMethod => 2
  | .corruptBlock _ => 3
  | .windowUnderflow => 4
  | .checksumMismatch => 5
  | .lengthMismatch => 6
  | .unexpectedEndOfInput => 7

/-- The CorruptBlock details of R701. -/
def detailCode : Detail → BitVec 8
  | .btypeReserved => 1
  | .storedNlen => 2
  | .hlitRange => 3
  | .hdistRange => 4
  | .clOversub => 5
  | .clNocode => 6
  | .repeatNoPrev => 7
  | .repeatOverrun => 8
  | .llOversub => 9
  | .llNoEob => 10
  | .dOversub => 11
  | .llNocode => 12
  | .dNocode => 13
  | .llSymInvalid => 14
  | .dSymInvalid => 15

/-- The detail an error records: 0 unless it is CorruptBlock (R701, R704). -/
def errorDetail : Err → BitVec 8
  | .corruptBlock d => detailCode d
  | _ => 0

/-- The phases whose errors have ORIGIN_INFLATE = 1 (R79, R704). -/
def inflatePhase : Phase → Bool
  | .blkHdr | .storedLen | .storedCopy | .dynHdr | .dynCllens | .dynLens | .symbol | .copy => true
  | _ => false

/-- The phases in which a pulled byte goes into the header CRC (R300, R607). -/
def headerCrcPhase : Phase → Bool
  | .gzFixed | .gzXlen | .gzExtra | .gzName | .gzComment => true
  | _ => false

/-- STATUS.BUSY (R67). -/
def busy (s : State) : Bool :=
  match s.phase with
  | .idle | .done | .error => false
  | _ => true

/-- STATUS.DONE (R68). -/
def isDone (s : State) : Bool := s.phase == .done

/-- STATUS.ERROR (R69). -/
def isError (s : State) : Bool := s.phase == .error

/-- The interrupt output, a level (R75, R710). -/
def irq (s : State) : Bool := s.ctrlIrqEn && (isDone s || isError s)

/-- One flag as a bit. -/
def flagBit (b : Bool) : BitVec 1 := BitVec.ofBool b

/-- CTRL as read (R64). -/
def ctrlWord (s : State) : Word := 0#28 ++ flagBit s.ctrlIrqEn ++ flagBit s.ctrlRaw ++ 0#2

/-- STATUS (R65 to R75), every field exact. -/
def statusWord (s : State) : Word :=
  0#17 ++ flagBit (irq s) ++ flagBit s.modeRaw ++ flagBit s.warnFlg ++ flagBit s.warnHcrc ++ s.btype ++
    flagBit s.bfinal ++ flagBit (isError s) ++ flagBit (isDone s) ++ flagBit (busy s) ++ phaseCode s.phase

/-- ERR (R76 to R79). -/
def errWord (s : State) : Word := 0#15 ++ flagBit s.errOrigin ++ s.errDetail ++ 0#4 ++ s.errCode

/-- The finished CRC-32 of the bytes emitted so far (R80, R610). -/
def crcOut (s : State) : Word := s.crc ^^^ 0xFFFFFFFF

/-- HDR0 (R86). -/
def hdr0Word (s : State) : Word := s.hdrOs ++ s.hdrXfl ++ s.hdrFlg ++ s.hdrCm

/-- HCRC (R88). -/
def hcrcWord (s : State) : Word := s.hcrcCalc ++ s.hcrcField

/-- RegRead with every field exact (R651); reserved offsets read 0 (R89). -/
def readExact (off : BitVec 6) (s : State) : Word :=
  match off.toNat with
  | 0x00 => ctrlWord s
  | 0x04 => statusWord s
  | 0x08 => errWord s
  | 0x0C => crcOut s
  | 0x10 => s.isize
  | 0x14 => s.trlCrc
  | 0x18 => s.trlIsize
  | 0x1C => BitVec.ofNat 32 s.ip
  | 0x20 => hdr0Word s
  | 0x24 => s.hdrMtime
  | 0x28 => hcrcWord s
  | _ => 0

/-- The STATUS bits that are a draw while BUSY = 1: BFINAL, BTYPE, WARN_HCRC, WARN_FLG (R164, R761). -/
def statusDrawMask : Word := 0x1F00

/-- A read at this offset has some bits that are a draw now (R164): the session is running and the register is neither
CTRL nor reserved. -/
def readIsDrawn (off : BitVec 6) (s : State) : Bool := busy s && 0x04 ≤ off.toNat && off.toNat ≤ 0x28

/-- RegRead (R651) with R164: `d` is the draw. STATUS keeps PHASE, BUSY, DONE, ERROR, MODE_RAW, IRQ and its reserved
bits (R163); the result registers are the draw as a whole. -/
def readRegister (off : BitVec 6) (d : Word) (s : State) : Word :=
  if readIsDrawn off s then
    if off = 0x04 then (statusWord s &&& ~~~statusDrawMask) ||| (d &&& statusDrawMask) else d
  else readExact off s

/-- Byte lane `k` of a register word on a byte-addressed bus (R154): bits 8k+7 to 8k. -/
def byteLane (v : Word) (k : Nat) : Byte := v.extractLsb' (8 * k) 8

/-- The data bytes of the last register read as a byte-addressed bus carries them (R154): byte `k` is what stands at the
register's offset plus `k`. A read by the 32-bit signal `reg_rdata` (R650) is the word itself. -/
def busRdata (s : State) : List Byte := (List.range 4).map (byteLane s.regRdata)

end Sys2Proof.Machine
end

