-- ==== Sys2Proof/Machine/Operands.lean ====
section
/-! DEFINITION. How operands are assembled (30_encoding.md R213) and which code lengths and which element the state
gives (10_state.md R52, R56). -/

namespace Sys2Proof.Machine

/-- HLIT count (R213, R420). -/
def hlitCount (h : BitVec 5) : BitVec 9 := h.setWidth 9 + 257

/-- HDIST count (R213, R420). -/
def hdistCount (d : BitVec 5) : BitVec 6 := d.setWidth 6 + 1

/-- HCLEN count (R213, R420). -/
def hclenCount (c : BitVec 4) : BitVec 5 := c.setWidth 5 + 4

/-- A match length, base plus extra bits (R213, R453). -/
def matchLength (base lx : Nat) : BitVec 9 := BitVec.ofNat 9 (base + lx)

/-- A match distance, base plus extra bits (R213, R453). -/
def matchDistance (base dx : Nat) : Nat := base + dx

/-- The code-length code's lengths after its fields arrived in ORDER, all others 0 (R421, R92). -/
def loadClLens (cll : List (BitVec 3)) : Vector (BitVec 3) 19 :=
  (clOrder.zip cll).foldl (fun v p => v.setIfInBounds p.1 p.2) (Vector.replicate 19 0)

/-- A run of `rep` code lengths of one value from index `start` (R422). -/
def fillLens (val : BitVec 4) : (rep start : Nat) → Vector (BitVec 4) 316 → Vector (BitVec 4) 316
  | 0, _, v => v
  | rep + 1, start, v => fillLens val rep (start + 1) (v.setIfInBounds start val)

/-- The code lengths of the code-length code (R56, R422). -/
def clLengths (s : State) : List Nat := s.clLens.toList.map fun x => x.toNat

/-- LLl of R427: the first hlit lengths, extended with 0 to 288 symbols. -/
def llLengths (s : State) : List Nat :=
  (s.lens.toList.take s.hlit.toNat).map (fun x => x.toNat) ++ List.replicate (Config.llAlphabet - s.hlit.toNat) 0

/-- Dl of R427: the next hdist lengths, extended with 0 to 32 symbols. -/
def dLengths (s : State) : List Nat :=
  ((s.lens.toList.drop s.hlit.toNat).take s.hdist.toNat).map (fun x => x.toNat) ++
    List.replicate (Config.dAlphabet - s.hdist.toNat) 0

/-- The LL code lengths of the block (R56, R450). -/
def blockLlLengths (s : State) : List Nat := if s.tblFixed then fixedLlLens else llLengths s

/-- The D code lengths of the block (R56, R450). -/
def blockDLengths (s : State) : List Nat := if s.tblFixed then fixedDLens else dLengths s

/-- HLIT + HDIST, the code lengths a dynamic block defines (R422). -/
def lensTotal (s : State) : Nat := s.hlit.toNat + s.hdist.toNat

/-- The element the current phase reads (R52, R212), none in a phase that reads nothing. A pending match length asks
for the distance symbol alone (notes/assumptions/1.md). -/
def expected (s : State) : Option Expect :=
  match s.phase with
  | .idle | .copy | .done | .error => none
  | .gzFixed => some .gzFixed
  | .gzXlen => some .gzXlen
  | .gzExtra => some .gzExtra
  | .gzName => some .gzName
  | .gzComment => some .gzComment
  | .gzHcrc => some .gzHcrc
  | .blkHdr => some .blkHdr
  | .storedLen => some .storedLen
  | .storedCopy => some .storedCopy
  | .dynHdr => some .dynHdr
  | .dynCllens => some (.dynCllens s.hclen.toNat)
  | .dynLens => some (.clSym (clLengths s))
  | .symbol =>
    match s.matchLen with
    | none => some (.llSym (blockLlLengths s) (blockDLengths s))
    | some _ => some (.dSym (blockDLengths s))
  | .trailer => some .trailer

end Sys2Proof.Machine
end

