-- ==== Sys2Proof/Machine/Ops.lean ====
section
/-! DEFINITION. The named operations the step rules are written with: the window, the CRC step, the output byte, the
input position, the end of a block, raising an error, and the ways back from one. -/

namespace Sys2Proof.Machine

/-! ### The window -/

/-- What was written to an address, if anything was. An unlisted address was never written: it has no value here, and
`windowRead` says what a read of it gives. -/
def Memory.lookup : Memory → Nat → Option Byte
  | [], _ => none
  | (k, x) :: m, a => if a = k then some x else Memory.lookup m a

/-- Write one byte, keeping the addresses strictly rising. -/
def Memory.write : Memory → Nat → Byte → Memory
  | [], a, b => [(a, b)]
  | (k, x) :: m, a, b =>
    if a < k then (a, b) :: (k, x) :: m
    else if a = k then (a, b) :: m
    else (k, x) :: Memory.write m a b

/-- The canonical form: strictly rising addresses, all inside the window (R90). No entry can equal what an unlisted
address reads as, since that is no value. -/
abbrev Memory.wf (m : Memory) : Prop :=
  m.Pairwise (fun p q => p.1 < q.1) ∧ ∀ p ∈ m, p.1 < Config.windowSize

/-- A read of a window byte (R90): a byte that nothing wrote is unspecified, a free value (R55, R557, U1). -/
def windowRead (s : State) (a : Nat) : Byte :=
  (Memory.lookup s.window a).getD (Config.windowUnspec s.wEpoch a)

/-- The window index `k` bytes behind the current position (R553), modulo 32768. -/
def windowIndex (s : State) (k : BitVec 16) : Nat := (s.wpos - k.setWidth 15).toNat

/-! ### CRC-32 -/

/-- One shift of CrcStep (R610). -/
def crcShift (c : Word) : Word := if c.getLsbD 0 then (c >>> 1) ^^^ 0xEDB88320 else c >>> 1

/-- CrcStep (R610): eight shifts after the byte is added. -/
def crcStep (c : Word) (b : Byte) : Word :=
  crcShift (crcShift (crcShift (crcShift (crcShift (crcShift (crcShift (crcShift (c ^^^ b.setWidth 32))))))))

/-! ### Output -/

/-- min(hist + 1, 32768) of R550. -/
def histNext (h : BitVec 16) : BitVec 16 := if h.toNat < Config.windowSize then h + 1 else 32768

/-- Emit (R550) once the output port takes the byte: the output, the window, the history, the CRC-32 (R610) and the
byte counter (R611). -/
def emit (b : Byte) (s : State) : State :=
  { s with
    outBytes := s.outBytes ++ [b]
    window := Memory.write s.window s.wpos.toNat b
    wpos := s.wpos + 1
    hist := histNext s.hist
    crc := crcStep s.crc b
    isize := s.isize + 1 }

/-- Emit as the last action of a step (R551): while `out_ready` is 0 the step holds and `held` is the state it leaves,
unchanged (R99, R662). -/
def emitOrHold (b : Byte) (s held : State) : Host.Outcome State Fault Refusal :=
  if s.outReady then .next (emit b s) else .next held

/-! ### Input position -/

/-- The bit_unpacker's position in the presented input (R51, R57). -/
def cursorOf (s : State) : Cursor := { bitbuf := s.bitbuf, bitpos := s.bitpos, rest := s.inBytes.drop s.ip }

/-- The bytes pulled between the state's position and a later cursor. -/
def pulledBytes (s : State) (c : Cursor) : List Byte :=
  (s.inBytes.drop s.ip).take ((s.inBytes.drop s.ip).length - c.rest.length)

/-- The state with its position moved to a later cursor: the bytes pulled are counted, and in the header phases each
goes into the header accumulator (R300, R607). -/
def advanceTo (c : Cursor) (s : State) : State :=
  { s with
    bitbuf := c.bitbuf
    bitpos := c.bitpos
    ip := s.ip + (pulledBytes s c).length
    hcrcAcc := if headerCrcPhase s.phase then (pulledBytes s c).foldl crcStep s.hcrcAcc else s.hcrcAcc }

/-- The writes a step made before it could not read on (R18, R705). -/
def applyCapture (k : Capture) (s : State) : State :=
  match k with
  | .nothing => s
  | .hdrCm cm => { s with hdrCm := cm }
  | .hdrFlg flg => { s with hdrCm := 8, hdrFlg := flg }
  | .hdrMtime flg mtime => { s with hdrCm := 8, hdrFlg := flg, hdrMtime := mtime }
  | .hdrXfl flg mtime xfl => { s with hdrCm := 8, hdrFlg := flg, hdrMtime := mtime, hdrXfl := xfl }
  | .hlit h => { s with hlit := hlitCount h }
  | .hdist h d => { s with hlit := hlitCount h, hdist := hdistCount d }
  | .clLens cll => { s with clLens := loadClLens cll }
  | .trlCrc crc => { s with trlCrc := crc }

/-! ### Control transfers (R359) -/

/-- The phase after a block (R357). -/
def endPhase (s : State) : Phase :=
  if s.bfinal then (if s.modeRaw then .done else .trailer) else .blkHdr

/-- EndOfBlock (R357): in raw mode the final block ends with AlignToByte. -/
def endOfBlock (s : State) : State :=
  { s with phase := endPhase s, bitpos := if s.bfinal && s.modeRaw then 8 else s.bitpos }

/-- Which header field was read last (R608). -/
inductive HeaderField where
  | fixed
  | extra
  | name
  | comment
  deriving DecidableEq, Repr

/-- NextHeaderField (R608): the next optional field that FLG says is present (R202), in the order EXTRA, NAME, COMMENT,
HCRC, else the first block. -/
def nextHeaderPhase (after : HeaderField) (flg : Byte) : Phase :=
  if after = .fixed ∧ flg.getLsbD 2 then .gzXlen
  else if (after = .fixed ∨ after = .extra) ∧ flg.getLsbD 3 then .gzName
  else if (after = .fixed ∨ after = .extra ∨ after = .name) ∧ flg.getLsbD 4 then .gzComment
  else if flg.getLsbD 1 then .gzHcrc
  else .blkHdr

/-- NextHeaderField (R608) as a step on the state. -/
def nextHeaderField (after : HeaderField) (s : State) : State := { s with phase := nextHeaderPhase after s.hdrFlg }

/-! ### Errors, and the ways back -/

/-- raise E(d) (R704), the one entry into phase ERROR: what the step wrote before stays (R18), nothing is saved beside
the code, the detail and the origin (R702), and nothing of the step runs after it. -/
def raise (e : Err) (s : State) : State :=
  { s with
    errCode := errorCode e
    errDetail := errorDetail e
    errOrigin := inflatePhase s.phase
    phase := .error
    matchLen := none }

/-- Raise a CorruptBlock by its detail (R701). -/
def raiseCorrupt (d : Detail) (s : State) : State := raise (.corruptBlock d) s

/-- SoftReset (R654): every field of st but ctrl_raw, ctrl_irq_en and W takes its reset value, and the ports are emptied.
The host's own lines and the model's bookkeeping are not the engine's to change. -/
def resetSession (s : State) : State :=
  { State.reset with
    ctrlRaw := s.ctrlRaw
    ctrlIrqEn := s.ctrlIrqEn
    window := s.window
    outReady := s.outReady
    regRdata := s.regRdata
    inFlow := s.inFlow
    draws := s.draws
    wEpoch := s.wEpoch
    agenda := s.agenda }

/-- The phase START selects (R653, R752). -/
def startPhase (raw : Bool) : Phase := if raw then .blkHdr else .gzFixed

/-- Start (R653) from IDLE, DONE or ERROR: the START values of R55, which differ from the reset values only in the phase
and the latched mode (R753). -/
def startSession (s : State) : State :=
  { resetSession s with phase := startPhase s.ctrlRaw, modeRaw := s.ctrlRaw }

/-- Start (R653): ignored while BUSY (R760). -/
def startCommand (s : State) : State := if busy s then s else startSession s

/-- The fields of a CTRL write (R652): RAW and IRQ_EN, at once (R665). -/
def writeCtrlFields (v : Word) (s : State) : State := { s with ctrlRaw := v.getLsbD 2, ctrlIrqEn := v.getLsbD 3 }

/-- A write of CTRL (R652): the fields first, then SOFT_RESET, then START; bits 31 to 4 are ignored. -/
def writeCtrl (v : Word) (s : State) : State :=
  let s1 := writeCtrlFields v s
  let s2 := if v.getLsbD 1 then resetSession s1 else s1
  if v.getLsbD 0 then startCommand s2 else s2

/-- RegWrite (R652): only CTRL has an effect (R89). -/
def writeRegister (off : BitVec 6) (v : Word) (s : State) : State := if off = 0 then writeCtrl v s else s

/-- Hardware reset (R750): every field of st takes its reset value and the ports are emptied; the window becomes
unspecified anew (U1). -/
def hardwareReset (s : State) : State :=
  { State.reset with
    outReady := s.outReady
    regRdata := s.regRdata
    inFlow := s.inFlow
    draws := s.draws
    wEpoch := s.wEpoch + 1
    agenda := s.agenda }

end Sys2Proof.Machine
end

