-- ==== Sys2Proof/Machine/Fetch.lean ====
section
/-! DEFINITION. Reading the next element: the decoder run at the state's position, with the three outcomes of
10_state.md R99 that reading can have (the element is read, the step holds, the step raises). -/

namespace Sys2Proof.Machine

/-- What fetching answers: the element's instructions with its bits consumed, the state after a raise, a hold, or a
model fault. -/
inductive Fetched where
  | got (is : List Instr) (s : State)
  | raised (s : State)
  | hold
  | bad (f : Fault)
  deriving DecidableEq, Repr

/-- The model fault of a read without meaning (R155, U6, U7). -/
def readFault : ReadFault → Fault
  | .unalignedByte => .readByteUnaligned
  | .tooWide => .readBitsTooWide

/-- Fetch one element. A byte that is not there holds the step, or raises UnexpectedEndOfInput when the host has ended
the input (R300, R657); the bits and fields read before a raise stay (R18). -/
def fetch (x : Expect) (s : State) : Fetched :=
  match decode x (cursorOf s) with
  | .elem is c => .got is (advanceTo c s)
  | .illegal e k c => .raised (raise e (applyCapture k (advanceTo c s)))
  | .short k c => if s.inEnd then .raised (raise .unexpectedEndOfInput (applyCapture k (advanceTo c s))) else .hold
  | .bad f => .bad (readFault f)

/-- The current step is held on input (R99, R660). -/
def heldOnInput (s : State) : Bool :=
  match expected s with
  | none => false
  | some x => match fetch x s with
    | .hold => true
    | _ => false

/-- The input port can take a byte now: in_ready (R661). Its level while the session runs is the port's flow control
(U10), but it is 1 while a step is held on input. -/
def inReady (s : State) : Bool := busy s && !s.inEnd && (s.inFlow || heldOnInput s)

end Sys2Proof.Machine
end

