-- ==== Sys2Proof/Machine/Block.lean ====
section
/-! DEFINITION. Block headers and stored blocks (41_block_dispatch.md R350 to R357). -/

namespace Sys2Proof.Machine

/-- The recorded block header of R350, before its type is acted on. -/
def recordHeader (bfinal : Bool) (btype : BitVec 2) (s : State) : State := { s with bfinal := bfinal, btype := btype }

/-- BLK_STORED (R350, R351). -/
def execBlkStored (bfinal : Bool) (s : State) : Host.Outcome State Fault Refusal :=
  .next { recordHeader bfinal 0 s with phase := .storedLen }

/-- BLK_FIXED (R350, R352): the fixed tables are selected. -/
def execBlkFixed (bfinal : Bool) (s : State) : Host.Outcome State Fault Refusal :=
  .next { recordHeader bfinal 1 s with tblFixed := true, phase := .symbol }

/-- BLK_DYNAMIC (R350, R353): tbl_fixed is left as it is until the tables are complete. -/
def execBlkDynamic (bfinal : Bool) (s : State) : Host.Outcome State Fault Refusal :=
  .next { recordHeader bfinal 2 s with phase := .dynHdr }

/-- BLK_RESERVED (R350, R354): the header is recorded before the error. -/
def execBlkReserved (bfinal : Bool) (s : State) : Host.Outcome State Fault Refusal :=
  .next (raiseCorrupt .btypeReserved (recordHeader bfinal 3 s))

/-- STORED_LEN (R355). -/
def execStoredLen (len nlen : BitVec 16) (s : State) : Host.Outcome State Fault Refusal :=
  .next (
    if len ≠ ~~~nlen then raiseCorrupt .storedNlen s
    else if len = 0 then endOfBlock s
    else { s with storedRem := len, phase := .storedCopy })

/-- STORED_COPY (R356) up to its Emit: one byte less is owed, and the last one ends the block. -/
def countStored (s : State) : State :=
  if s.storedRem - 1 = 0 then endOfBlock { s with storedRem := s.storedRem - 1 }
  else { s with storedRem := s.storedRem - 1 }

/-- STORED_COPY (R356): the byte goes to the output and the window. -/
def execStoredCopy (b : BitVec 8) (s : State) : Host.Outcome State Fault Refusal := emitOrHold b (countStored s) s

end Sys2Proof.Machine
end

