-- ==== Sys2Proof/Machine/Distance.lean ====
section
/-! DEFINITION. The distance symbols (43_symbols.md R490 to R519, R522, R523): the second half of LenDist (R453), which
acts on the match length the length symbol left. -/

namespace Sys2Proof.Machine

/-- The tail of LenDist (R453) for a pending match length: the history check (R554), then the copy is set up. -/
def startCopy (len : BitVec 9) (dist : Nat) (s : State) : State :=
  if s.hist.toNat < dist then raise .windowUnderflow s
  else { s with copyLen := len, copyDist := BitVec.ofNat 16 dist, phase := .copy, matchLen := none }

/-- `dist <- DBASE[d] + DX` and the rest of LenDist (R453). -/
def finishMatch (base dx : Nat) (s : State) : Host.Outcome State Fault Refusal :=
  match s.matchLen with
  | none => .fault .distanceWithoutLength
  | some len => .next (startCopy len (matchDistance base dx) s)

/-- The invalid distance symbols (R453, R522, R523): no extra bits are read. -/
def rejectDistance (s : State) : Host.Outcome State Fault Refusal :=
  match s.matchLen with
  | none => .fault .distanceWithoutLength
  | some _ => .next (raiseCorrupt .dSymInvalid s)

/-- DIST_0 (R490): distance 1. -/
def execDist0 (s : State) : Host.Outcome State Fault Refusal := finishMatch 1 0 s

/-- DIST_1 (R491): distance 2. -/
def execDist1 (s : State) : Host.Outcome State Fault Refusal := finishMatch 2 0 s

/-- DIST_2 (R492): distance 3. -/
def execDist2 (s : State) : Host.Outcome State Fault Refusal := finishMatch 3 0 s

/-- DIST_3 (R493): distance 4. -/
def execDist3 (s : State) : Host.Outcome State Fault Refusal := finishMatch 4 0 s

/-- DIST_4 (R494): distances 5 to 6. -/
def execDist4 (dx : BitVec 1) (s : State) : Host.Outcome State Fault Refusal := finishMatch 5 dx.toNat s

/-- DIST_5 (R495): distances 7 to 8. -/
def execDist5 (dx : BitVec 1) (s : State) : Host.Outcome State Fault Refusal := finishMatch 7 dx.toNat s

/-- DIST_6 (R496): distances 9 to 12. -/
def execDist6 (dx : BitVec 2) (s : State) : Host.Outcome State Fault Refusal := finishMatch 9 dx.toNat s

/-- DIST_7 (R497): distances 13 to 16. -/
def execDist7 (dx : BitVec 2) (s : State) : Host.Outcome State Fault Refusal := finishMatch 13 dx.toNat s

/-- DIST_8 (R498): distances 17 to 24. -/
def execDist8 (dx : BitVec 3) (s : State) : Host.Outcome State Fault Refusal := finishMatch 17 dx.toNat s

/-- DIST_9 (R499): distances 25 to 32. -/
def execDist9 (dx : BitVec 3) (s : State) : Host.Outcome State Fault Refusal := finishMatch 25 dx.toNat s

/-- DIST_10 (R500): distances 33 to 48. -/
def execDist10 (dx : BitVec 4) (s : State) : Host.Outcome State Fault Refusal := finishMatch 33 dx.toNat s

/-- DIST_11 (R501): distances 49 to 64. -/
def execDist11 (dx : BitVec 4) (s : State) : Host.Outcome State Fault Refusal := finishMatch 49 dx.toNat s

/-- DIST_12 (R502): distances 65 to 96. -/
def execDist12 (dx : BitVec 5) (s : State) : Host.Outcome State Fault Refusal := finishMatch 65 dx.toNat s

/-- DIST_13 (R503): distances 97 to 128. -/
def execDist13 (dx : BitVec 5) (s : State) : Host.Outcome State Fault Refusal := finishMatch 97 dx.toNat s

/-- DIST_14 (R504): distances 129 to 192. -/
def execDist14 (dx : BitVec 6) (s : State) : Host.Outcome State Fault Refusal := finishMatch 129 dx.toNat s

/-- DIST_15 (R505): distances 193 to 256. -/
def execDist15 (dx : BitVec 6) (s : State) : Host.Outcome State Fault Refusal := finishMatch 193 dx.toNat s

/-- DIST_16 (R506): distances 257 to 384. -/
def execDist16 (dx : BitVec 7) (s : State) : Host.Outcome State Fault Refusal := finishMatch 257 dx.toNat s

/-- DIST_17 (R507): distances 385 to 512. -/
def execDist17 (dx : BitVec 7) (s : State) : Host.Outcome State Fault Refusal := finishMatch 385 dx.toNat s

/-- DIST_18 (R508): distances 513 to 768. -/
def execDist18 (dx : BitVec 8) (s : State) : Host.Outcome State Fault Refusal := finishMatch 513 dx.toNat s

/-- DIST_19 (R509): distances 769 to 1024. -/
def execDist19 (dx : BitVec 8) (s : State) : Host.Outcome State Fault Refusal := finishMatch 769 dx.toNat s

/-- DIST_20 (R510): distances 1025 to 1536. -/
def execDist20 (dx : BitVec 9) (s : State) : Host.Outcome State Fault Refusal := finishMatch 1025 dx.toNat s

/-- DIST_21 (R511): distances 1537 to 2048. -/
def execDist21 (dx : BitVec 9) (s : State) : Host.Outcome State Fault Refusal := finishMatch 1537 dx.toNat s

/-- DIST_22 (R512): distances 2049 to 3072. -/
def execDist22 (dx : BitVec 10) (s : State) : Host.Outcome State Fault Refusal := finishMatch 2049 dx.toNat s

/-- DIST_23 (R513): distances 3073 to 4096. -/
def execDist23 (dx : BitVec 10) (s : State) : Host.Outcome State Fault Refusal := finishMatch 3073 dx.toNat s

/-- DIST_24 (R514): distances 4097 to 6144. -/
def execDist24 (dx : BitVec 11) (s : State) : Host.Outcome State Fault Refusal := finishMatch 4097 dx.toNat s

/-- DIST_25 (R515): distances 6145 to 8192. -/
def execDist25 (dx : BitVec 11) (s : State) : Host.Outcome State Fault Refusal := finishMatch 6145 dx.toNat s

/-- DIST_26 (R516): distances 8193 to 12288. -/
def execDist26 (dx : BitVec 12) (s : State) : Host.Outcome State Fault Refusal := finishMatch 8193 dx.toNat s

/-- DIST_27 (R517): distances 12289 to 16384. -/
def execDist27 (dx : BitVec 12) (s : State) : Host.Outcome State Fault Refusal := finishMatch 12289 dx.toNat s

/-- DIST_28 (R518): distances 16385 to 24576. -/
def execDist28 (dx : BitVec 13) (s : State) : Host.Outcome State Fault Refusal := finishMatch 16385 dx.toNat s

/-- DIST_29 (R519): distances 24577 to 32768. -/
def execDist29 (dx : BitVec 13) (s : State) : Host.Outcome State Fault Refusal := finishMatch 24577 dx.toNat s

/-- D symbol 30 (R522). -/
def execD30 (s : State) : Host.Outcome State Fault Refusal := rejectDistance s

/-- D symbol 31 (R523). -/
def execD31 (s : State) : Host.Outcome State Fault Refusal := rejectDistance s

end Sys2Proof.Machine
end

