-- ==== Sys2Proof/Machine/Dynamic.lean ====
section
/-! DEFINITION. Dynamic headers: the counts, the code-length code, the code lengths and the completion of the tables
(42_huffman.md R420 to R428). -/

namespace Sys2Proof.Machine

/-- DYN_HDR (R420): all three counts are recorded before the checks, HLIT first. -/
def execDynHdr (hlit hdist : BitVec 5) (hclen : BitVec 4) (s : State) : Host.Outcome State Fault Refusal :=
  let s1 := { s with hlit := hlitCount hlit, hdist := hdistCount hdist, hclen := hclenCount hclen }
  .next (
    if Config.hlitMax < s1.hlit.toNat then raiseCorrupt .hlitRange s1
    else if Config.hdistMax < s1.hdist.toNat then raiseCorrupt .hdistRange s1
    else { s1 with phase := .dynCllens })

/-- DYN_CLLENS (R421): an incomplete code-length code is accepted (R401). -/
def execDynCllens (cll : List (BitVec 3)) (s : State) : Host.Outcome State Fault Refusal :=
  let s1 := { s with clLens := loadClLens cll }
  .next (
    if oversubscribed (clLengths s1) Config.maxBitsCL then raiseCorrupt .clOversub s1
    else { s1 with lens := Vector.replicate 316 0, idx := 0, phase := .dynLens })

/-- CompleteTables (R427): the checks in the order written; incomplete tables are accepted. -/
def completeTables (s : State) : State :=
  if oversubscribed (llLengths s) Config.maxBitsLD then raiseCorrupt .llOversub s
  else if (llLengths s).getD 256 0 = 0 then raiseCorrupt .llNoEob s
  else if oversubscribed (dLengths s) Config.maxBitsLD then raiseCorrupt .dOversub s
  else { s with tblFixed := false, phase := .symbol }

/-- The last statement of DYN_LENS (R422): the tables are completed once every length is defined. -/
def finishLens (s : State) : State := if s.idx.toNat = lensTotal s then completeTables s else s

/-- One code length (R422, R423). -/
def defineLen (v : BitVec 4) (s : State) : State :=
  finishLens { s with lens := s.lens.setIfInBounds s.idx.toNat v, idx := s.idx + 1 }

/-- A run of code lengths (R422): it may end exactly at the total and may cross from the LL into the D lengths (R428);
a run past the total writes none. -/
def defineRun (rep : Nat) (val : BitVec 4) (s : State) : State :=
  if lensTotal s < s.idx.toNat + rep then raiseCorrupt .repeatOverrun s
  else finishLens { s with lens := fillLens val rep s.idx.toNat s.lens, idx := BitVec.ofNat 9 (s.idx.toNat + rep) }

/-- The length before the next one (R424). -/
def previousLen (s : State) : BitVec 4 := s.lens.toList.getD (s.idx.toNat - 1) 0

/-- CL_0 (R423): the next code length is 0. -/
def execCl0 (s : State) : Host.Outcome State Fault Refusal := .next (defineLen 0 s)

/-- CL_1 (R423): the next code length is 1. -/
def execCl1 (s : State) : Host.Outcome State Fault Refusal := .next (defineLen 1 s)

/-- CL_2 (R423): the next code length is 2. -/
def execCl2 (s : State) : Host.Outcome State Fault Refusal := .next (defineLen 2 s)

/-- CL_3 (R423): the next code length is 3. -/
def execCl3 (s : State) : Host.Outcome State Fault Refusal := .next (defineLen 3 s)

/-- CL_4 (R423): the next code length is 4. -/
def execCl4 (s : State) : Host.Outcome State Fault Refusal := .next (defineLen 4 s)

/-- CL_5 (R423): the next code length is 5. -/
def execCl5 (s : State) : Host.Outcome State Fault Refusal := .next (defineLen 5 s)

/-- CL_6 (R423): the next code length is 6. -/
def execCl6 (s : State) : Host.Outcome State Fault Refusal := .next (defineLen 6 s)

/-- CL_7 (R423): the next code length is 7. -/
def execCl7 (s : State) : Host.Outcome State Fault Refusal := .next (defineLen 7 s)

/-- CL_8 (R423): the next code length is 8. -/
def execCl8 (s : State) : Host.Outcome State Fault Refusal := .next (defineLen 8 s)

/-- CL_9 (R423): the next code length is 9. -/
def execCl9 (s : State) : Host.Outcome State Fault Refusal := .next (defineLen 9 s)

/-- CL_10 (R423): the next code length is 10. -/
def execCl10 (s : State) : Host.Outcome State Fault Refusal := .next (defineLen 10 s)

/-- CL_11 (R423): the next code length is 11. -/
def execCl11 (s : State) : Host.Outcome State Fault Refusal := .next (defineLen 11 s)

/-- CL_12 (R423): the next code length is 12. -/
def execCl12 (s : State) : Host.Outcome State Fault Refusal := .next (defineLen 12 s)

/-- CL_13 (R423): the next code length is 13. -/
def execCl13 (s : State) : Host.Outcome State Fault Refusal := .next (defineLen 13 s)

/-- CL_14 (R423): the next code length is 14. -/
def execCl14 (s : State) : Host.Outcome State Fault Refusal := .next (defineLen 14 s)

/-- CL_15 (R423): the next code length is 15. -/
def execCl15 (s : State) : Host.Outcome State Fault Refusal := .next (defineLen 15 s)

/-- CL_16 (R424): the previous length again, 3 to 6 times; an error when there is none. -/
def execCl16 (rep : BitVec 2) (s : State) : Host.Outcome State Fault Refusal :=
  .next (if s.idx = 0 then raiseCorrupt .repeatNoPrev s else defineRun (3 + rep.toNat) (previousLen s) s)

/-- CL_17 (R425): 3 to 10 zero lengths. -/
def execCl17 (rep : BitVec 3) (s : State) : Host.Outcome State Fault Refusal := .next (defineRun (3 + rep.toNat) 0 s)

/-- CL_18 (R426): 11 to 138 zero lengths. -/
def execCl18 (rep : BitVec 7) (s : State) : Host.Outcome State Fault Refusal := .next (defineRun (11 + rep.toNat) 0 s)

end Sys2Proof.Machine
end

