-- ==== Sys2Proof/Machine/Gzip.lean ====
section
/-! DEFINITION. The gzip header elements and the trailer (45_gzip_container.md R600 to R608, R620): what each does once
its fields are read. -/

namespace Sys2Proof.Machine

/-- GZ_FIXED (R600): the captured header fields, the reserved-flag warning, then the next header field. The magic and
the method are checked where they are read. -/
def execGzFixed (flg : BitVec 8) (mtime : BitVec 32) (xfl os : BitVec 8) (s : State) :
    Host.Outcome State Fault Refusal :=
  .next (nextHeaderField .fixed
    { s with hdrCm := 8, hdrFlg := flg, hdrMtime := mtime, hdrXfl := xfl, hdrOs := os, warnFlg := flg.extractLsb' 5 3 != 0 })

/-- GZ_XLEN (R601): a length of 0 is a present but empty extra field. -/
def execGzXlen (xlen : BitVec 16) (s : State) : Host.Outcome State Fault Refusal :=
  .next (if xlen = 0 then nextHeaderField .extra s else { s with xlenRem := xlen, phase := .gzExtra })

/-- One extra-field byte less to skip. -/
def countExtra (s : State) : State := { s with xlenRem := s.xlenRem - 1 }

/-- GZ_EXTRA (R602): the byte is discarded. -/
def execGzExtra (_b : BitVec 8) (s : State) : Host.Outcome State Fault Refusal :=
  .next (if s.xlenRem - 1 = 0 then nextHeaderField .extra (countExtra s) else countExtra s)

/-- GZ_NAME (R603): the byte is discarded; 0x00 ends the field. -/
def execGzName (b : BitVec 8) (s : State) : Host.Outcome State Fault Refusal :=
  .next (if b = 0 then nextHeaderField .name s else s)

/-- GZ_COMMENT (R604): as GZ_NAME. -/
def execGzComment (b : BitVec 8) (s : State) : Host.Outcome State Fault Refusal :=
  .next (if b = 0 then nextHeaderField .comment s else s)

/-- The computed header CRC of R605: the low 16 bits of the finished header CRC-32. -/
def headerCrc (s : State) : BitVec 16 := (s.hcrcAcc ^^^ 0xFFFFFFFF).setWidth 16

/-- GZ_HCRC (R605): a mismatch is a warning, never an error (R622). -/
def execGzHcrc (h : BitVec 16) (s : State) : Host.Outcome State Fault Refusal :=
  .next { s with hcrcField := h, hcrcCalc := headerCrc s, warnHcrc := h != headerCrc s, phase := .blkHdr }

/-- The trailer fields as read (R620), which stay whatever the comparison says (R702). -/
def captureTrailer (crc isize : BitVec 32) (s : State) : State := { s with trlCrc := crc, trlIsize := isize }

/-- GZ_TRAILER (R620): both fields are recorded, then the CRC is compared, then the length. -/
def execGzTrailer (crc isize : BitVec 32) (s : State) : Host.Outcome State Fault Refusal :=
  .next (
    if crc ≠ crcOut s then raise .checksumMismatch (captureTrailer crc isize s)
    else if isize ≠ s.isize then raise .lengthMismatch (captureTrailer crc isize s)
    else { captureTrailer crc isize s with phase := .done })

end Sys2Proof.Machine
end

