-- ==== Sys2Proof/Machine/Symbol.lean ====
section
/-! DEFINITION. The literal/length symbols (43_symbols.md R450 to R488, R520, R521). A length symbol is the first half of
LenDist (R453): it leaves its match length for the distance symbol that follows in the same step
(notes/assumptions/1.md). -/

namespace Sys2Proof.Machine

/-- LIT (R451). -/
def execLit (b : BitVec 8) (s : State) : Host.Outcome State Fault Refusal := emitOrHold b s s

/-- EOB (R452). -/
def execEob (s : State) : Host.Outcome State Fault Refusal := .next (endOfBlock s)

/-- `len <- LBASE[s] + LX` of LenDist (R453). -/
def beginMatch (base lx : Nat) (s : State) : State := { s with matchLen := some (matchLength base lx) }

/-- LEN_257 (R460): length 3. -/
def execLen257 (s : State) : Host.Outcome State Fault Refusal := .next (beginMatch 3 0 s)

/-- LEN_258 (R461): length 4. -/
def execLen258 (s : State) : Host.Outcome State Fault Refusal := .next (beginMatch 4 0 s)

/-- LEN_259 (R462): length 5. -/
def execLen259 (s : State) : Host.Outcome State Fault Refusal := .next (beginMatch 5 0 s)

/-- LEN_260 (R463): length 6. -/
def execLen260 (s : State) : Host.Outcome State Fault Refusal := .next (beginMatch 6 0 s)

/-- LEN_261 (R464): length 7. -/
def execLen261 (s : State) : Host.Outcome State Fault Refusal := .next (beginMatch 7 0 s)

/-- LEN_262 (R465): length 8. -/
def execLen262 (s : State) : Host.Outcome State Fault Refusal := .next (beginMatch 8 0 s)

/-- LEN_263 (R466): length 9. -/
def execLen263 (s : State) : Host.Outcome State Fault Refusal := .next (beginMatch 9 0 s)

/-- LEN_264 (R467): length 10. -/
def execLen264 (s : State) : Host.Outcome State Fault Refusal := .next (beginMatch 10 0 s)

/-- LEN_265 (R468): lengths 11 to 12. -/
def execLen265 (lx : BitVec 1) (s : State) : Host.Outcome State Fault Refusal := .next (beginMatch 11 lx.toNat s)

/-- LEN_266 (R469): lengths 13 to 14. -/
def execLen266 (lx : BitVec 1) (s : State) : Host.Outcome State Fault Refusal := .next (beginMatch 13 lx.toNat s)

/-- LEN_267 (R470): lengths 15 to 16. -/
def execLen267 (lx : BitVec 1) (s : State) : Host.Outcome State Fault Refusal := .next (beginMatch 15 lx.toNat s)

/-- LEN_268 (R471): lengths 17 to 18. -/
def execLen268 (lx : BitVec 1) (s : State) : Host.Outcome State Fault Refusal := .next (beginMatch 17 lx.toNat s)

/-- LEN_269 (R472): lengths 19 to 22. -/
def execLen269 (lx : BitVec 2) (s : State) : Host.Outcome State Fault Refusal := .next (beginMatch 19 lx.toNat s)

/-- LEN_270 (R473): lengths 23 to 26. -/
def execLen270 (lx : BitVec 2) (s : State) : Host.Outcome State Fault Refusal := .next (beginMatch 23 lx.toNat s)

/-- LEN_271 (R474): lengths 27 to 30. -/
def execLen271 (lx : BitVec 2) (s : State) : Host.Outcome State Fault Refusal := .next (beginMatch 27 lx.toNat s)

/-- LEN_272 (R475): lengths 31 to 34. -/
def execLen272 (lx : BitVec 2) (s : State) : Host.Outcome State Fault Refusal := .next (beginMatch 31 lx.toNat s)

/-- LEN_273 (R476): lengths 35 to 42. -/
def execLen273 (lx : BitVec 3) (s : State) : Host.Outcome State Fault Refusal := .next (beginMatch 35 lx.toNat s)

/-- LEN_274 (R477): lengths 43 to 50. -/
def execLen274 (lx : BitVec 3) (s : State) : Host.Outcome State Fault Refusal := .next (beginMatch 43 lx.toNat s)

/-- LEN_275 (R478): lengths 51 to 58. -/
def execLen275 (lx : BitVec 3) (s : State) : Host.Outcome State Fault Refusal := .next (beginMatch 51 lx.toNat s)

/-- LEN_276 (R479): lengths 59 to 66. -/
def execLen276 (lx : BitVec 3) (s : State) : Host.Outcome State Fault Refusal := .next (beginMatch 59 lx.toNat s)

/-- LEN_277 (R480): lengths 67 to 82. -/
def execLen277 (lx : BitVec 4) (s : State) : Host.Outcome State Fault Refusal := .next (beginMatch 67 lx.toNat s)

/-- LEN_278 (R481): lengths 83 to 98. -/
def execLen278 (lx : BitVec 4) (s : State) : Host.Outcome State Fault Refusal := .next (beginMatch 83 lx.toNat s)

/-- LEN_279 (R482): lengths 99 to 114. -/
def execLen279 (lx : BitVec 4) (s : State) : Host.Outcome State Fault Refusal := .next (beginMatch 99 lx.toNat s)

/-- LEN_280 (R483): lengths 115 to 130. -/
def execLen280 (lx : BitVec 4) (s : State) : Host.Outcome State Fault Refusal := .next (beginMatch 115 lx.toNat s)

/-- LEN_281 (R484): lengths 131 to 162. -/
def execLen281 (lx : BitVec 5) (s : State) : Host.Outcome State Fault Refusal := .next (beginMatch 131 lx.toNat s)

/-- LEN_282 (R485): lengths 163 to 194. -/
def execLen282 (lx : BitVec 5) (s : State) : Host.Outcome State Fault Refusal := .next (beginMatch 163 lx.toNat s)

/-- LEN_283 (R486): lengths 195 to 226. -/
def execLen283 (lx : BitVec 5) (s : State) : Host.Outcome State Fault Refusal := .next (beginMatch 195 lx.toNat s)

/-- LEN_284 (R487): lengths 227 to 258. -/
def execLen284 (lx : BitVec 5) (s : State) : Host.Outcome State Fault Refusal := .next (beginMatch 227 lx.toNat s)

/-- LEN_285 (R488): length 258. -/
def execLen285 (s : State) : Host.Outcome State Fault Refusal := .next (beginMatch 258 0 s)

/-- LL symbol 286 (R520): invalid, no extra bits are read. -/
def execLl286 (s : State) : Host.Outcome State Fault Refusal := .next (raiseCorrupt .llSymInvalid s)

/-- LL symbol 287 (R521): invalid, no extra bits are read. -/
def execLl287 (s : State) : Host.Outcome State Fault Refusal := .next (raiseCorrupt .llSymInvalid s)

end Sys2Proof.Machine
end

