-- ==== Sys2Proof/Machine/Window.lean ====
section
/-! DEFINITION. The COPY step (44_lz77_window.md R555), the one engine step that reads no element and has no row in the
opcode table. -/

namespace Sys2Proof.Machine

/-- The byte a COPY step reads (R555): the one `copy_dist` behind the current position. -/
def copyByte (s : State) : Byte := windowRead s (windowIndex s s.copyDist)

/-- The COPY step up to its Emit (R555): one byte less is owed, and the last one returns to the symbol loop. -/
def countCopy (s : State) : State :=
  { s with copyLen := s.copyLen - 1, phase := if s.copyLen - 1 = 0 then .symbol else s.phase }

/-- Step COPY (R555), with the hold of its Emit (R550). -/
def copyStep (s : State) : Host.Outcome State Fault Refusal := emitOrHold (copyByte s) (countCopy s) s

end Sys2Proof.Machine
end

