-- ==== Sys2Proof/Machine/HostCommands.lean ====
section
/-! DEFINITION. The host's commands: register access, the input port, the output port and the reset line
(46_host_interface.md R650 to R662, 70_reset_and_hazards.md R750). A transfer that is not enabled does not take place
and changes nothing (R650; notes/assumptions/9.md). -/

namespace Sys2Proof.Machine

/-- START (R653, R652): the CTRL write of `v`. -/
def execStart (v : BitVec 32) (s : State) : Host.Outcome State Fault Refusal := .next (writeCtrl v s)

/-- SOFT_RESET (R654, R652): the CTRL write of `v`; it acts before START when both are set. -/
def execSoftReset (v : BitVec 32) (s : State) : Host.Outcome State Fault Refusal := .next (writeCtrl v s)

/-- RegWrite (R652, R157). -/
def execRegWrite (off : BitVec 6) (v : BitVec 32) (s : State) : Host.Outcome State Fault Refusal :=
  if alignedOffset off then .next (writeRegister off v s) else .refused .badRegisterAccess

/-- RegRead (R651, R157, R164): the value is what the host sees on reg_rdata; no register has a read side effect. -/
def execRegRead (off : BitVec 6) (s : State) : Host.Outcome State Fault Refusal :=
  if alignedOffset off then
    .next { s with
      regRdata := readRegister off (Config.freeRead s.draws) s
      draws := if readIsDrawn off s then s.draws + 1 else s.draws }
  else .refused .badRegisterAccess

/-- PushByte (R655): enabled only while in_ready is 1 (R661). -/
def execPushByte (b : BitVec 8) (s : State) : Host.Outcome State Fault Refusal :=
  .next (if inReady s then { s with inBytes := s.inBytes ++ [b] } else s)

/-- EndInput (R657): enabled while BUSY = 1 and in_end = false. -/
def execEndInput (s : State) : Host.Outcome State Fault Refusal :=
  .next (if busy s && !s.inEnd then { s with inEnd := true } else s)

/-- The byte the output port offers with the state the emitting step is in just before its Emit: none while no step
that emits is enabled but for out_ready (R662). -/
def offered (s : State) : Option (Byte × State) :=
  match s.phase with
  | .copy => some (copyByte s, countCopy s)
  | .storedCopy | .symbol =>
    match (expected s).map fun x => fetch x s with
    | some (.got [.storedCopy b] t) => some (b, countStored t)
    | some (.got [.lit b] t) => some (b, t)
    | _ => none
  | _ => none

/-- out_valid (R662). -/
def outValid (s : State) : Bool := (offered s).isSome

/-- OutAccept (R662): enabled while out_valid and out_ready are 1; it is the transfer that completes the emitting
step. -/
def execOutAccept (s : State) : Host.Outcome State Fault Refusal :=
  .next (match offered s with
    | some (b, t) => if s.outReady then emit b t else s
    | none => s)

/-- HardReset (R750): it acts in any phase. -/
def execHardReset (s : State) : Host.Outcome State Fault Refusal := .next (hardwareReset s)

end Sys2Proof.Machine
end

