-- ==== Sys2Proof/Machine/Dispatch.lean ====
section
/-! DEFINITION. The dispatch: one arm an instruction. -/

namespace Sys2Proof.Machine

def exec (i : Instr) (s : State) : Host.Outcome State Fault Refusal :=
  match i with
  | .gzFixed flg mtime xfl os => Sys2Proof.Machine.execGzFixed flg mtime xfl os s
  | .gzXlen xlen => Sys2Proof.Machine.execGzXlen xlen s
  | .gzExtra b => Sys2Proof.Machine.execGzExtra b s
  | .gzName b => Sys2Proof.Machine.execGzName b s
  | .gzComment b => Sys2Proof.Machine.execGzComment b s
  | .gzHcrc h => Sys2Proof.Machine.execGzHcrc h s
  | .blkStored bfinal => Sys2Proof.Machine.execBlkStored bfinal s
  | .blkFixed bfinal => Sys2Proof.Machine.execBlkFixed bfinal s
  | .blkDynamic bfinal => Sys2Proof.Machine.execBlkDynamic bfinal s
  | .blkReserved bfinal => Sys2Proof.Machine.execBlkReserved bfinal s
  | .storedLen len nlen => Sys2Proof.Machine.execStoredLen len nlen s
  | .storedCopy b => Sys2Proof.Machine.execStoredCopy b s
  | .dynHdr hlit hdist hclen => Sys2Proof.Machine.execDynHdr hlit hdist hclen s
  | .dynCllens cll => Sys2Proof.Machine.execDynCllens cll s
  | .cl0 => Sys2Proof.Machine.execCl0 s
  | .cl1 => Sys2Proof.Machine.execCl1 s
  | .cl2 => Sys2Proof.Machine.execCl2 s
  | .cl3 => Sys2Proof.Machine.execCl3 s
  | .cl4 => Sys2Proof.Machine.execCl4 s
  | .cl5 => Sys2Proof.Machine.execCl5 s
  | .cl6 => Sys2Proof.Machine.execCl6 s
  | .cl7 => Sys2Proof.Machine.execCl7 s
  | .cl8 => Sys2Proof.Machine.execCl8 s
  | .cl9 => Sys2Proof.Machine.execCl9 s
  | .cl10 => Sys2Proof.Machine.execCl10 s
  | .cl11 => Sys2Proof.Machine.execCl11 s
  | .cl12 => Sys2Proof.Machine.execCl12 s
  | .cl13 => Sys2Proof.Machine.execCl13 s
  | .cl14 => Sys2Proof.Machine.execCl14 s
  | .cl15 => Sys2Proof.Machine.execCl15 s
  | .cl16 rep => Sys2Proof.Machine.execCl16 rep s
  | .cl17 rep => Sys2Proof.Machine.execCl17 rep s
  | .cl18 rep => Sys2Proof.Machine.execCl18 rep s
  | .lit b => Sys2Proof.Machine.execLit b s
  | .eob => Sys2Proof.Machine.execEob s
  | .len257 => Sys2Proof.Machine.execLen257 s
  | .len258 => Sys2Proof.Machine.execLen258 s
  | .len259 => Sys2Proof.Machine.execLen259 s
  | .len260 => Sys2Proof.Machine.execLen260 s
  | .len261 => Sys2Proof.Machine.execLen261 s
  | .len262 => Sys2Proof.Machine.execLen262 s
  | .len263 => Sys2Proof.Machine.execLen263 s
  | .len264 => Sys2Proof.Machine.execLen264 s
  | .len265 lx => Sys2Proof.Machine.execLen265 lx s
  | .len266 lx => Sys2Proof.Machine.execLen266 lx s
  | .len267 lx => Sys2Proof.Machine.execLen267 lx s
  | .len268 lx => Sys2Proof.Machine.execLen268 lx s
  | .len269 lx => Sys2Proof.Machine.execLen269 lx s
  | .len270 lx => Sys2Proof.Machine.execLen270 lx s
  | .len271 lx => Sys2Proof.Machine.execLen271 lx s
  | .len272 lx => Sys2Proof.Machine.execLen272 lx s
  | .len273 lx => Sys2Proof.Machine.execLen273 lx s
  | .len274 lx => Sys2Proof.Machine.execLen274 lx s
  | .len275 lx => Sys2Proof.Machine.execLen275 lx s
  | .len276 lx => Sys2Proof.Machine.execLen276 lx s
  | .len277 lx => Sys2Proof.Machine.execLen277 lx s
  | .len278 lx => Sys2Proof.Machine.execLen278 lx s
  | .len279 lx => Sys2Proof.Machine.execLen279 lx s
  | .len280 lx => Sys2Proof.Machine.execLen280 lx s
  | .len281 lx => Sys2Proof.Machine.execLen281 lx s
  | .len282 lx => Sys2Proof.Machine.execLen282 lx s
  | .len283 lx => Sys2Proof.Machine.execLen283 lx s
  | .len284 lx => Sys2Proof.Machine.execLen284 lx s
  | .len285 => Sys2Proof.Machine.execLen285 s
  | .ll286 => Sys2Proof.Machine.execLl286 s
  | .ll287 => Sys2Proof.Machine.execLl287 s
  | .dist0 => Sys2Proof.Machine.execDist0 s
  | .dist1 => Sys2Proof.Machine.execDist1 s
  | .dist2 => Sys2Proof.Machine.execDist2 s
  | .dist3 => Sys2Proof.Machine.execDist3 s
  | .dist4 dx => Sys2Proof.Machine.execDist4 dx s
  | .dist5 dx => Sys2Proof.Machine.execDist5 dx s
  | .dist6 dx => Sys2Proof.Machine.execDist6 dx s
  | .dist7 dx => Sys2Proof.Machine.execDist7 dx s
  | .dist8 dx => Sys2Proof.Machine.execDist8 dx s
  | .dist9 dx => Sys2Proof.Machine.execDist9 dx s
  | .dist10 dx => Sys2Proof.Machine.execDist10 dx s
  | .dist11 dx => Sys2Proof.Machine.execDist11 dx s
  | .dist12 dx => Sys2Proof.Machine.execDist12 dx s
  | .dist13 dx => Sys2Proof.Machine.execDist13 dx s
  | .dist14 dx => Sys2Proof.Machine.execDist14 dx s
  | .dist15 dx => Sys2Proof.Machine.execDist15 dx s
  | .dist16 dx => Sys2Proof.Machine.execDist16 dx s
  | .dist17 dx => Sys2Proof.Machine.execDist17 dx s
  | .dist18 dx => Sys2Proof.Machine.execDist18 dx s
  | .dist19 dx => Sys2Proof.Machine.execDist19 dx s
  | .dist20 dx => Sys2Proof.Machine.execDist20 dx s
  | .dist21 dx => Sys2Proof.Machine.execDist21 dx s
  | .dist22 dx => Sys2Proof.Machine.execDist22 dx s
  | .dist23 dx => Sys2Proof.Machine.execDist23 dx s
  | .dist24 dx => Sys2Proof.Machine.execDist24 dx s
  | .dist25 dx => Sys2Proof.Machine.execDist25 dx s
  | .dist26 dx => Sys2Proof.Machine.execDist26 dx s
  | .dist27 dx => Sys2Proof.Machine.execDist27 dx s
  | .dist28 dx => Sys2Proof.Machine.execDist28 dx s
  | .dist29 dx => Sys2Proof.Machine.execDist29 dx s
  | .d30 => Sys2Proof.Machine.execD30 s
  | .d31 => Sys2Proof.Machine.execD31 s
  | .gzTrailer crc isize => Sys2Proof.Machine.execGzTrailer crc isize s
  | .start v => Sys2Proof.Machine.execStart v s
  | .softReset v => Sys2Proof.Machine.execSoftReset v s
  | .regWrite off v => Sys2Proof.Machine.execRegWrite off v s
  | .regRead off => Sys2Proof.Machine.execRegRead off s
  | .pushByte b => Sys2Proof.Machine.execPushByte b s
  | .endInput => Sys2Proof.Machine.execEndInput s
  | .outAccept => Sys2Proof.Machine.execOutAccept s
  | .hardReset => Sys2Proof.Machine.execHardReset s

end Sys2Proof.Machine
end

