-- ==== Sys2Proof/Machine/Engine.lean ====
section
/-! DEFINITION. The two agents of the machine (10_state.md R99): the engine's step, which fetches one element and runs
its instructions as one atomic transition, and the host's transfer. -/

namespace Sys2Proof.Machine

/-- The instructions whose step ends with an Emit (R551); COPY, the third, has no instruction. -/
def emits : Instr → Bool
  | .lit _ | .storedCopy _ => true
  | _ => false

/-- Run the instructions of one element in order: a length symbol, then its distance symbol (R453). -/
def execAll : List Instr → State → Host.Outcome State Fault Refusal
  | [], s => .next s
  | i :: is, s =>
    match exec i s with
    | .next t => execAll is t
    | .fault f => .fault f
    | .refused r => .refused r

/-- One engine step from `s` (R99): completed, error, or hold, in which the state is unchanged. A step that emits holds
as a whole while out_ready is 0, with nothing read (R550, R662). -/
def runElement (x : Expect) (s : State) : Host.Outcome State Fault Refusal :=
  match fetch x s with
  | .got is t => if is.any emits && !s.outReady then .next s else execAll is t
  | .raised t => .next t
  | .hold => .next s
  | .bad f => .fault f

/-- The engine's turn (R99): no step exists in IDLE, DONE and ERROR; COPY reads no element. -/
def engineStep (s : State) : Host.Outcome State Fault Refusal :=
  if s.phase = .copy then copyStep s
  else match expected s with
    | none => .next s
    | some x => runElement x s

/-- The host's turn: a transfer at the engine's signals (R99, R650). -/
def hostStep (g : Signal) (s : State) : Host.Outcome State Fault Refusal :=
  match decodeHost g with
  | .command i => exec i s
  | .outLevel b => .next { s with outReady := b }
  | .badAccess => .refused .badRegisterAccess
  | .elsewhere => .refused .notRegisterBlock

/-- One turn. -/
def runTurn (t : Turn) (s : State) : Host.Outcome State Fault Refusal :=
  match t with
  | .engine => engineStep s
  | .host g => hostStep g s
  | .inFlow b => .next { s with inFlow := b }

/-- Where an element of a table word is fetched from: the phase, the tables and the pending match length that select
its format, the presented input, and an output port that takes a byte (notes/assumptions/3.md). -/
def placeElement (x : Expect) (bytes : List Byte) (s : State) : State :=
  let s1 := { s with agenda := [], inBytes := bytes, ip := 0, bitpos := 8, outReady := true, matchLen := none }
  match x with
  | .gzFixed => { s1 with phase := .gzFixed }
  | .clSym cl => { s1 with phase := .dynLens, clLens := loadClLens (clOrder.map fun c => BitVec.ofNat 3 (cl.getD c 0)) }
  | .llSym _ _ => { s1 with phase := .symbol, tblFixed := true }
  | .dSym _ => { s1 with phase := .symbol, tblFixed := true, matchLen := some 3 }
  | _ => s1

end Sys2Proof.Machine
end

