-- ==== Sys2Proof/Machine/Step.lean ====
section
/-! DEFINITION. One step of the machine: the next turn of the agenda, or an engine step where the agenda is empty
(10_state.md R99; notes/assumptions/2.md). -/

namespace Sys2Proof.Machine

/-- The next state of the machine. -/
def step (s : State) : Host.Outcome State Fault Refusal :=
  match s.agenda with
  | [] => engineStep s
  | t :: rest => runTurn t { s with agenda := rest }

/-- The state with a table word's element placed where the engine reads next (notes/assumptions/3.md). -/
def State.withFetchWord (s : State) (nbits w : Nat) : State :=
  match tableExpect nbits w with
  | none => s
  | some (x, sel) => placeElement x (tableStream x sel) s

end Sys2Proof.Machine
end

