-- ==== Sys2Proof/Safety.lean ====
section
/-! DEFINITION. What the statements are stated in: the bits a position has still to give, which elements have an
encoding, the legal states of the machine (10_state.md R55, R307, R308) and the accounts a session keeps of its input
and output (45_gzip_container.md R607, R610, R611, 44_lz77_window.md R553, R558). -/

namespace Sys2Proof

/-! ### The stream -/

/-- The bits a cursor has still to give, in stream order (R200): the rest of the buffered byte, then the bytes not yet
pulled, bit 0 first (R150). -/
def Cursor.bits (c : Cursor) : List Bool :=
  (fieldBits c.bitbuf).drop c.bitpos.toNat ++ c.rest.flatMap fieldBits

/-- The value of a field's bits, the first as bit 0 (R151). -/
def bitsValue : List Bool → Nat
  | [] => 0
  | b :: l => b.toNat + 2 * bitsValue l

/-- Four bytes of a little-endian field (R152, R213). -/
def leU32 (b0 b1 b2 b3 : Byte) : Word :=
  BitVec.ofNat 32 (b0.toNat + 256 * b1.toNat + 65536 * b2.toNat + 16777216 * b3.toNat)

/-- The elements whose fields are whole bytes read without an alignment of their own (R200, R203, R205). -/
def byteElement : Expect → Bool
  | .gzFixed | .gzXlen | .gzExtra | .gzName | .gzComment | .gzHcrc | .storedCopy => true
  | _ => false

/-- Where an element's bits begin: after the ALIGN of the two formats that have one (R205, R211). -/
def elementStart (x : Expect) (c : Cursor) : Cursor :=
  match x with
  | .storedLen | .trailer => alignToByte c
  | _ => c

/-! ### Codes -/

/-- Symbol `s` has a code in the table of these lengths (R400, R402), a table that is not over-subscribed (R403). -/
def hasCode (lens : List Nat) (maxbits s : Nat) : Prop :=
  0 < lens.getD s 0 ∧ lens.getD s 0 ≤ maxbits ∧ oversubscribed lens maxbits = false

/-- The share of the `maxbits`-bit patterns that the codes of these lengths take up (R403): a code of length `l` is the
start of `2^(maxbits - l)` of them. -/
def patternsTaken (lens : List Nat) (maxbits : Nat) : Nat :=
  (lens.map fun l => if 0 < l ∧ l ≤ maxbits then 2 ^ (maxbits - l) else 0).sum

/-- The tables an element is read by are not over-subscribed. -/
def soundTables : Expect → Prop
  | .clSym cl => oversubscribed cl Config.maxBitsCL = false
  | .llSym ll d => oversubscribed ll Config.maxBitsLD = false ∧ oversubscribed d Config.maxBitsLD = false
  | .dSym d => oversubscribed d Config.maxBitsLD = false
  | _ => True

/-! ### Elements -/

/-- LBASE of R220, from symbol 257. -/
def lengthBase : List Nat :=
  [3, 4, 5, 6, 7, 8, 9, 10, 11, 13, 15, 17, 19, 23, 27, 31, 35, 43, 51, 59, 67, 83, 99, 115, 131, 163, 195, 227, 258]

/-- DBASE of R221, from symbol 0. -/
def distBase : List Nat :=
  [1, 2, 3, 4, 5, 7, 9, 13, 17, 25, 33, 49, 65, 97, 129, 193, 257, 385, 513, 769, 1025, 1537, 2049, 3073, 4097, 6145,
    8193, 12289, 16385, 24577]

/-- The match length a length symbol stands for (R213, R220): its base plus the value of its extra bits. -/
def matchLengthOf (i : Instr) : Option Nat :=
  if i.format = .llSym ∧ 257 ≤ i.selector then
    lengthBase[i.selector - 257]?.map fun base => base + bitsValue i.operandBits
  else none

/-- The match distance a distance symbol stands for (R213, R221). -/
def matchDistanceOf (i : Instr) : Option Nat :=
  if i.format = .dSym then distBase[i.selector]?.map fun base => base + bitsValue i.operandBits else none

/-- The instructions of one whole element of the kind expected, each with a code where its format has one
(R201 to R211): a length symbol is followed by its distance symbol. -/
def Admits : Expect → List Instr → Prop
  | .gzFixed, [i] => i.format = .gzFixed
  | .gzXlen, [i] => i.format = .gzXlen
  | .gzExtra, [i] => i.format = .gzExtra
  | .gzName, [i] => i.format = .gzName
  | .gzComment, [i] => i.format = .gzComment
  | .gzHcrc, [i] => i.format = .gzHcrc
  | .blkHdr, [i] => i.format = .blkHdr
  | .storedLen, [.storedLen _ _] => True
  | .storedCopy, [.storedCopy _] => True
  | .dynHdr, [i] => i.format = .dynHdr
  | .dynCllens n, [.dynCllens cll] => cll.length = n
  | .clSym cl, [i] => i.format = .clSym ∧ hasCode cl Config.maxBitsCL i.selector
  | .llSym ll _, [i] => i.format = .llSym ∧ matchLengthOf i = none ∧ hasCode ll Config.maxBitsLD i.selector
  | .llSym ll d, [i, j] =>
    i.format = .llSym ∧ matchLengthOf i ≠ none ∧ hasCode ll Config.maxBitsLD i.selector ∧
      j.format = .dSym ∧ hasCode d Config.maxBitsLD j.selector
  | .dSym d, [j] => j.format = .dSym ∧ hasCode d Config.maxBitsLD j.selector
  | .trailer, [i] => i.format = .gzTrailer
  | _, _ => False

/-! ### The machine -/

namespace Machine

/-- The phases that no step leaves (R52, R99). -/
def restPhase : Phase → Bool
  | .idle | .done | .error => true
  | _ => false

/-- The phases whose step reads whole bytes without aligning first (R308). -/
def bytePhase : Phase → Bool
  | .gzFixed | .gzXlen | .gzExtra | .gzName | .gzComment | .gzHcrc | .storedCopy => true
  | _ => false

/-- The gzip header phases (R52). -/
def headerPhase : Phase → Bool
  | .gzFixed | .gzXlen | .gzExtra | .gzName | .gzComment | .gzHcrc => true
  | _ => false

/-- The number of the next stream bit (R51, R200): whole bytes pulled, less the bits of the last that are left. -/
def streamPos (s : State) : Nat := 8 * s.ip + s.bitpos.toNat - 8

/-- The stream position of `t` is `n` bits after that of `s`. -/
def movedBits (n : Nat) (s t : State) : Prop := streamPos t = streamPos s + n

/-- The output byte `k` bytes behind the end of the output, for `1 ≤ k`. -/
def outBehind (s : State) (k : Nat) : Option Byte := s.outBytes[s.outBytes.length - k]?

/-- `u` is `s` with the bits `bs` taken from the input and nothing else changed (R309): the position moved past them,
and in the header phases up to GZ_COMMENT the bytes pulled went into the header accumulator (R300, R607). -/
structure Took (bs : List Bool) (s u : State) : Prop where
  keeps : u = { s with bitbuf := u.bitbuf, bitpos := u.bitpos, ip := u.ip, hcrcAcc := u.hcrcAcc }
  bits : (cursorOf s).bits = bs ++ (cursorOf u).bits
  moved : movedBits bs.length s u
  header : u.hcrcAcc =
    if s.phase = .gzFixed ∨ s.phase = .gzXlen ∨ s.phase = .gzExtra ∨ s.phase = .gzName ∨ s.phase = .gzComment then
      ((s.inBytes.take u.ip).drop s.ip).foldl crcStep s.hcrcAcc
    else s.hcrcAcc

/-- The dynamic tables of the block passed the checks of CompleteTables (R427). -/
structure DynTables (s : State) : Prop where
  hlit : 257 ≤ s.hlit.toNat ∧ s.hlit.toNat ≤ 286
  hdist : 1 ≤ s.hdist.toNat ∧ s.hdist.toNat ≤ 30
  llFits : oversubscribed (llLengths s) Config.maxBitsLD = false
  llEob : (llLengths s).getD 256 0 ≠ 0
  dFits : oversubscribed (dLengths s) Config.maxBitsLD = false

/-- The legal values of the state (R55), whatever the phase. -/
structure LegalValues (s : State) : Prop where
  /-- R307: 1 to 8 between steps. -/
  bitpos : 1 ≤ s.bitpos.toNat ∧ s.bitpos.toNat ≤ 8
  /-- R300: only presented bytes are pulled. -/
  ip : s.ip ≤ s.inBytes.length
  /-- R302: a byte with bits left is the last one pulled. -/
  bitbuf : s.bitpos ≠ 8 → 1 ≤ s.ip ∧ s.inBytes[s.ip - 1]? = some s.bitbuf
  /-- R90: the window's canonical form. -/
  window : Memory.wf s.window
  hist : s.hist.toNat ≤ 32768
  copyLen : s.copyLen.toNat ≤ 258
  copyDist : s.copyDist.toNat ≤ 32768
  idx : s.idx.toNat ≤ 316
  hlit : s.hlit = 0 ∨ 257 ≤ s.hlit.toNat ∧ s.hlit.toNat ≤ 288
  hdist : s.hdist.toNat ≤ 32
  hclen : s.hclen = 0 ∨ 4 ≤ s.hclen.toNat ∧ s.hclen.toNat ≤ 19
  /-- R700. -/
  errCode : s.errCode.toNat ≤ 7
  /-- R701: only CorruptBlock, code 3, has a detail. -/
  errDetail : s.errDetail.toNat ≤ 15 ∧ (s.errCode = 3 ↔ s.errDetail ≠ 0)
  /-- R453: a match length never waits between steps. -/
  matchLen : s.matchLen = none

/-- What the phase's step rule needs when it is entered, and what a phase says of the fields. -/
structure PhaseReady (s : State) : Prop where
  /-- R77: a code exactly in ERROR. -/
  error : s.errCode = 0 ↔ s.phase ≠ .error
  /-- R308: whole bytes are read at a byte boundary. -/
  aligned : bytePhase s.phase = true → s.bitpos = 8
  /-- R61, R86: a raw session has no header and no trailer. -/
  raw : s.modeRaw = true → headerPhase s.phase = false ∧ s.phase ≠ .trailer ∧ hdr0Word s = 0 ∧ s.hdrMtime = 0 ∧
    s.warnFlg = false ∧ s.trlCrc = 0 ∧ s.trlIsize = 0
  /-- R203: an optional field is read only when its FLG bit is set. -/
  extraPresent : s.phase = .gzXlen ∨ s.phase = .gzExtra → s.hdrFlg.getLsbD 2 = true
  namePresent : s.phase = .gzName → s.hdrFlg.getLsbD 3 = true
  commentPresent : s.phase = .gzComment → s.hdrFlg.getLsbD 4 = true
  hcrcPresent : s.phase = .gzHcrc → s.hdrFlg.getLsbD 1 = true
  /-- R88: both parts of HCRC are 0 while the field is absent or not yet read. -/
  hcrcUnread : s.hdrFlg.getLsbD 1 = false ∨ headerPhase s.phase = true →
    s.hcrcField = 0 ∧ s.hcrcCalc = 0 ∧ s.warnHcrc = false
  /-- R82, R83: the trailer fields are 0 until the trailer is read. -/
  trlUnread : restPhase s.phase = false → s.trlCrc = 0 ∧ s.trlIsize = 0
  /-- R602. -/
  extraOwed : s.phase = .gzExtra → s.xlenRem ≠ 0
  /-- R356. -/
  storedOwed : s.phase = .storedCopy → s.storedRem ≠ 0
  /-- R421. -/
  counts : s.phase = .dynCllens ∨ s.phase = .dynLens →
    (257 ≤ s.hlit.toNat ∧ s.hlit.toNat ≤ 286) ∧ (1 ≤ s.hdist.toNat ∧ s.hdist.toNat ≤ 30) ∧ s.hclen ≠ 0
  /-- R422: the step is entered only with lengths still to define, by a code that is not over-subscribed. -/
  lengths : s.phase = .dynLens → s.idx.toNat < lensTotal s ∧ oversubscribed (clLengths s) Config.maxBitsCL = false
  /-- R427. -/
  tables : s.phase = .symbol ∨ s.phase = .copy → s.tblFixed = true ∨ DynTables s
  /-- R555. -/
  copying : s.phase = .copy → 1 ≤ s.copyLen.toNat ∧ 1 ≤ s.copyDist.toNat ∧ s.copyDist.toNat ≤ s.hist.toNat
  /-- R357: only the final block leads to the trailer and to DONE. -/
  final : s.phase = .trailer ∨ s.phase = .done → s.bfinal = true
  /-- R654, R750: IDLE is entered by a reset only, and nothing of a session is left in it. -/
  idle : s.phase = .idle → s = resetSession s

/-- A legal state: what every step keeps. -/
structure Legal (s : State) : Prop where
  values : LegalValues s
  ready : PhaseReady s

/-- The accounts a session keeps: every counter and checksum is that of the bytes delivered or pulled, and the window
holds the last 32768 bytes delivered. -/
structure Accounts (s : State) : Prop where
  /-- R611. -/
  isize : s.isize = BitVec.ofNat 32 s.outBytes.length
  /-- R558. -/
  hist : s.hist.toNat = min s.outBytes.length 32768
  /-- R550. -/
  wpos : s.wpos.toNat = s.outBytes.length % 32768
  /-- R610: every byte delivered went through CrcByte, in order. -/
  crc : s.crc = s.outBytes.foldl crcStep 0xFFFFFFFF
  /-- R553: the byte delivered `k` bytes ago stands `k` behind the next window index. -/
  window : ∀ k, 1 ≤ k → k ≤ s.hist.toNat →
    Memory.lookup s.window ((s.wpos.toNat + 32768 - k) % 32768) = outBehind s k
  /-- R607: up to the HCRC field, the header accumulator is that of every byte pulled. -/
  header : headerPhase s.phase = true → s.hcrcAcc = (s.inBytes.take s.ip).foldl crcStep 0xFFFFFFFF

/-- `n` steps of the machine, stopping at the first fault or refusal. -/
def runSteps : Nat → State → Host.Outcome State Fault Refusal
  | 0, s => .next s
  | n + 1, s =>
    match step s with
    | .next t => runSteps n t
    | .fault f => .fault f
    | .refused r => .refused r

end Machine

end Sys2Proof
end

