-- ==== Sys2Proof/Certificates/Slice0/Obligations.lean ====
section
/-! DEFINITION. The statements for the provers. Each names the rules of spec/ it formalises; where one rests on a choice
of the model it says which log entry. The shared procedures of the spec (raise, Emit, EndOfBlock, NextHeaderField,
CompleteTables) have a statement each, and the statements about the elements are written with them, as the rules are. -/

section

open Sys2Proof Sys2Proof.Machine

/-! ### The shared procedures -/

/-- R704, R700, R701: what `raise E(d)` writes, that it writes nothing else, and the number of every error and of every
CorruptBlock detail; every other error records detail 0. That the pending match length of LenDist is dropped is the
model's own (notes/assumptions/1.md). -/
def Obligations.RaiseRecordsTheError : Prop :=
  (∀ (e : Err) (s : State),
    raise e s = { s with
      errCode := errorCode e
      errDetail := errorDetail e
      errOrigin := decide (s.phase = .blkHdr ∨ s.phase = .storedLen ∨ s.phase = .storedCopy ∨ s.phase = .dynHdr ∨
        s.phase = .dynCllens ∨ s.phase = .dynLens ∨ s.phase = .symbol ∨ s.phase = .copy)
      phase := .error
      matchLen := none }) ∧
  errorCode .invalidMagic = 1 ∧ errorCode .unsupportedMethod = 2 ∧ (∀ d, errorCode (.corruptBlock d) = 3) ∧
  errorCode .windowUnderflow = 4 ∧ errorCode .checksumMismatch = 5 ∧ errorCode .lengthMismatch = 6 ∧
  errorCode .unexpectedEndOfInput = 7 ∧
  (∀ d, errorDetail (.corruptBlock d) = detailCode d) ∧
  (∀ e, (∀ d, e ≠ .corruptBlock d) → errorDetail e = 0) ∧
  detailCode .btypeReserved = 1 ∧ detailCode .storedNlen = 2 ∧ detailCode .hlitRange = 3 ∧
  detailCode .hdistRange = 4 ∧ detailCode .clOversub = 5 ∧ detailCode .clNocode = 6 ∧ detailCode .repeatNoPrev = 7 ∧
  detailCode .repeatOverrun = 8 ∧ detailCode .llOversub = 9 ∧ detailCode .llNoEob = 10 ∧ detailCode .dOversub = 11 ∧
  detailCode .llNocode = 12 ∧ detailCode .dNocode = 13 ∧ detailCode .llSymInvalid = 14 ∧ detailCode .dSymInvalid = 15

/-- R550: what Emit writes, that it writes nothing else, and that a byte of the window other than the one at `wpos`
reads as before. -/
def Obligations.EmitDeliversOneByte : Prop :=
  ∀ (b : Byte) (s : State),
    emit b s = { s with
      outBytes := s.outBytes ++ [b]
      window := Memory.write s.window s.wpos.toNat b
      wpos := s.wpos + 1
      hist := BitVec.ofNat 16 (min (s.hist.toNat + 1) 32768)
      crc := crcStep s.crc b
      isize := s.isize + 1 } ∧
    windowRead (emit b s) s.wpos.toNat = b ∧
    ∀ a, a ≠ s.wpos.toNat → windowRead (emit b s) a = windowRead s a

/-- R357: the phase after a block, and the alignment of raw mode. -/
def Obligations.EndOfBlockSelectsThePhase : Prop :=
  ∀ s : State,
    (s.bfinal = true → s.modeRaw = true → endOfBlock s = { s with bitpos := 8, phase := .done }) ∧
    (s.bfinal = true → s.modeRaw = false → endOfBlock s = { s with phase := .trailer }) ∧
    (s.bfinal = false → endOfBlock s = { s with phase := .blkHdr })

/-- R608, R202: the next header field is the first that FLG says is present, of those that come after the field just
read, in the order EXTRA (bit 2), NAME (bit 3), COMMENT (bit 4), HCRC (bit 1), else the first block. -/
def Obligations.HeaderFieldsComeInOrder : Prop :=
  ∀ (s : State),
    let pick := fun (l : List (Nat × Phase)) => ((l.find? fun p => s.hdrFlg.getLsbD p.1).map Prod.snd).getD .blkHdr
    nextHeaderField .fixed s =
      { s with phase := pick [(2, .gzXlen), (3, .gzName), (4, .gzComment), (1, .gzHcrc)] } ∧
    nextHeaderField .extra s = { s with phase := pick [(3, .gzName), (4, .gzComment), (1, .gzHcrc)] } ∧
    nextHeaderField .name s = { s with phase := pick [(4, .gzComment), (1, .gzHcrc)] } ∧
    nextHeaderField .comment s = { s with phase := pick [(1, .gzHcrc)] }

/-- R427: CompleteTables over the lengths it splits, its checks in the order written. `LLl` and `Dl` are the rule's. -/
def Obligations.TablesAreCheckedInOrder : Prop :=
  ∀ s : State,
    let lens := s.lens.toList.map fun x => x.toNat
    let LLl := lens.take s.hlit.toNat ++ List.replicate (288 - s.hlit.toNat) 0
    let Dl := (lens.drop s.hlit.toNat).take s.hdist.toNat ++ List.replicate (32 - s.hdist.toNat) 0
    completeTables s =
      if oversubscribed LLl 15 = true then raise (.corruptBlock .llOversub) s
      else if LLl.getD 256 0 = 0 then raise (.corruptBlock .llNoEob) s
      else if oversubscribed Dl 15 = true then raise (.corruptBlock .dOversub) s
      else { s with tblFixed := false, phase := .symbol }

/-- R610: CrcStep is eight shifts of the reflected polynomial after the byte is added, the session starts it at
0xFFFFFFFF, and the check values of the rule. -/
def Obligations.CrcStepIsEightShifts : Prop :=
  (∀ (c : Word) (b : Byte),
    crcStep c b =
      (fun x : Word => if x.getLsbD 0 = true then (x >>> 1) ^^^ 0xEDB88320 else x >>> 1)^[8] (c ^^^ b.setWidth 32)) ∧
  (∀ s, (startSession s).crc = 0xFFFFFFFF) ∧
  (∀ s, crcOut s = s.crc ^^^ 0xFFFFFFFF) ∧
  ([0x68, 0x65, 0x6C, 0x6C, 0x6F].foldl crcStep 0xFFFFFFFF ^^^ 0xFFFFFFFF : Word) = 0x3610A686 ∧
  ([0x31, 0x32, 0x33, 0x34, 0x35, 0x36, 0x37, 0x38, 0x39].foldl crcStep 0xFFFFFFFF ^^^ 0xFFFFFFFF : Word) = 0xCBF43926

/-! ### What each instruction does -/

/-- R600 after its reads: the header fields are captured, the reserved bits of FLG set the warning, and the next field
follows. -/
def Obligations.FixedHeaderIsCaptured : Prop :=
  ∀ (flg : BitVec 8) (mtime : BitVec 32) (xfl os : BitVec 8) (s : State),
    exec (.gzFixed flg mtime xfl os) s = .next (nextHeaderField .fixed { s with
      hdrCm := 8
      hdrFlg := flg
      hdrMtime := mtime
      hdrXfl := xfl
      hdrOs := os
      warnFlg := flg.getLsbD 5 || flg.getLsbD 6 || flg.getLsbD 7 })

/-- R601 to R604 after their reads: XLEN opens the extra field or, when 0, ends it; an extra byte counts down to the end
of the field; a name or comment byte ends its field when it is 0x00; every byte is discarded. -/
def Obligations.OptionalHeaderBytesAreSkipped : Prop :=
  ∀ (s : State),
    (∀ xlen : BitVec 16, xlen ≠ 0 → exec (.gzXlen xlen) s = .next { s with xlenRem := xlen, phase := .gzExtra }) ∧
    exec (.gzXlen 0) s = .next (nextHeaderField .extra s) ∧
    (∀ b, s.xlenRem ≠ 1 → exec (.gzExtra b) s = .next { s with xlenRem := s.xlenRem - 1 }) ∧
    (∀ b, s.xlenRem = 1 → exec (.gzExtra b) s = .next (nextHeaderField .extra { s with xlenRem := 0 })) ∧
    (∀ b, b ≠ 0 → exec (.gzName b) s = .next s ∧ exec (.gzComment b) s = .next s) ∧
    exec (.gzName 0) s = .next (nextHeaderField .name s) ∧
    exec (.gzComment 0) s = .next (nextHeaderField .comment s)

/-- R605 after its read: the field and the computed value are recorded, a mismatch is a warning only, and the first
block follows either way. -/
def Obligations.HeaderCrcMismatchOnlyWarns : Prop :=
  ∀ (h : BitVec 16) (s : State),
    exec (.gzHcrc h) s = .next { s with
      hcrcField := h
      hcrcCalc := (s.hcrcAcc ^^^ 0xFFFFFFFF).extractLsb' 0 16
      warnHcrc := decide (h ≠ (s.hcrcAcc ^^^ 0xFFFFFFFF).extractLsb' 0 16)
      phase := .blkHdr }

/-- R351 to R354: a block header records BFINAL and BTYPE and selects what follows; BTYPE 11 raises after recording. -/
def Obligations.BlockTypesSelectWhatFollows : Prop :=
  ∀ (f : Bool) (s : State),
    exec (.blkStored f) s = .next { s with bfinal := f, btype := 0, phase := .storedLen } ∧
    exec (.blkFixed f) s = .next { s with bfinal := f, btype := 1, tblFixed := true, phase := .symbol } ∧
    exec (.blkDynamic f) s = .next { s with bfinal := f, btype := 2, phase := .dynHdr } ∧
    exec (.blkReserved f) s = .next (raise (.corruptBlock .btypeReserved) { s with bfinal := f, btype := 3 })

/-- R355 after its reads: NLEN must be the complement of LEN; an empty block ends at once; otherwise LEN bytes are
owed. -/
def Obligations.StoredLengthIsCheckedAgainstItsComplement : Prop :=
  ∀ (len nlen : BitVec 16) (s : State),
    (nlen = ~~~len → len ≠ 0 → exec (.storedLen len nlen) s = .next { s with storedRem := len, phase := .storedCopy }) ∧
    (nlen = ~~~len → len = 0 → exec (.storedLen len nlen) s = .next (endOfBlock s)) ∧
    (nlen ≠ ~~~len → exec (.storedLen len nlen) s = .next (raise (.corruptBlock .storedNlen) s))

/-- R356 after its read: the byte is delivered and counted, and the last one ends the block; while the output port takes
no byte the element changes nothing. -/
def Obligations.StoredByteIsDelivered : Prop :=
  ∀ (b : Byte) (s : State),
    (s.outReady = true → s.storedRem ≠ 1 →
      exec (.storedCopy b) s = .next (emit b { s with storedRem := s.storedRem - 1 })) ∧
    (s.outReady = true → s.storedRem = 1 →
      exec (.storedCopy b) s = .next (emit b (endOfBlock { s with storedRem := 0 }))) ∧
    (s.outReady = false → exec (.storedCopy b) s = .next s)

/-- R420 after its reads: the three counts are recorded, then HLIT is checked, then HDIST. -/
def Obligations.DynamicCountsAreChecked : Prop :=
  ∀ (hlit hdist : BitVec 5) (hclen : BitVec 4) (s : State),
    let u := { s with
      hlit := BitVec.ofNat 9 (hlit.toNat + 257)
      hdist := BitVec.ofNat 6 (hdist.toNat + 1)
      hclen := BitVec.ofNat 5 (hclen.toNat + 4) }
    (hlit.toNat ≤ 29 → hdist.toNat ≤ 29 → exec (.dynHdr hlit hdist hclen) s = .next { u with phase := .dynCllens }) ∧
    (30 ≤ hlit.toNat → exec (.dynHdr hlit hdist hclen) s = .next (raise (.corruptBlock .hlitRange) u)) ∧
    (hlit.toNat ≤ 29 → 30 ≤ hdist.toNat →
      exec (.dynHdr hlit hdist hclen) s = .next (raise (.corruptBlock .hdistRange) u))

/-- R421 after its reads, R207: the fields arrive in ORDER, every other length is 0, an over-subscribed code is
rejected, and otherwise all code lengths are cleared. -/
def Obligations.CodeLengthCodeIsLoadedInOrder : Prop :=
  ∀ (cll : List (BitVec 3)) (s : State), 4 ≤ cll.length → cll.length ≤ 19 →
    ∃ cl : Vector (BitVec 3) 19,
      (∀ k, k < cll.length → cl.toList[clOrder.getD k 0]? = cll[k]?) ∧
      (∀ k, cll.length ≤ k → k < 19 → cl.toList[clOrder.getD k 0]? = some 0) ∧
      (oversubscribed (cl.toList.map fun x => x.toNat) 7 = false →
        exec (.dynCllens cll) s = .next { s with
          clLens := cl
          lens := Vector.replicate 316 0
          idx := 0
          phase := .dynLens }) ∧
      (oversubscribed (cl.toList.map fun x => x.toNat) 7 = true →
        exec (.dynCllens cll) s = .next (raise (.corruptBlock .clOversub) { s with clLens := cl }))

/-- R422, R423 after the read: CL symbols 0 to 15 define the next code length, and the last length completes the
tables. -/
def Obligations.CodeLengthSymbolsDefineOneLength : Prop :=
  ∀ (p : Instr × BitVec 4) (s : State),
    p ∈ [(Instr.cl0, (0 : BitVec 4)), (.cl1, 1), (.cl2, 2), (.cl3, 3), (.cl4, 4), (.cl5, 5), (.cl6, 6), (.cl7, 7),
      (.cl8, 8), (.cl9, 9), (.cl10, 10), (.cl11, 11), (.cl12, 12), (.cl13, 13), (.cl14, 14), (.cl15, 15)] →
    let u := { s with lens := s.lens.setIfInBounds s.idx.toNat p.2, idx := s.idx + 1 }
    (s.idx.toNat + 1 < s.hlit.toNat + s.hdist.toNat → exec p.1 s = .next u) ∧
    (s.idx.toNat + 1 = s.hlit.toNat + s.hdist.toNat → s.hlit.toNat + s.hdist.toNat ≤ 316 →
      exec p.1 s = .next (completeTables u))

/-- R422, R424 to R426 after the read: CL symbol 16 repeats the length before the next one, 17 and 18 repeat 0; a run
that ends before the total goes on, one that ends at it completes the tables, one that would pass it is an error and
writes nothing, and symbol 16 with no length before it is an error. -/
def Obligations.RepeatSymbolsDefineRuns : Prop :=
  ∀ (s : State) (i : Instr) (rep : Nat) (val : BitVec 4),
    ((∃ r : BitVec 2, i = .cl16 r ∧ rep = 3 + r.toNat ∧ s.idx ≠ 0 ∧ s.lens.toList[s.idx.toNat - 1]? = some val) ∨
     (∃ r : BitVec 3, i = .cl17 r ∧ rep = 3 + r.toNat ∧ val = 0) ∨
     (∃ r : BitVec 7, i = .cl18 r ∧ rep = 11 + r.toNat ∧ val = 0)) →
    s.hlit.toNat + s.hdist.toNat ≤ 316 →
    (s.hlit.toNat + s.hdist.toNat < s.idx.toNat + rep → exec i s = .next (raise (.corruptBlock .repeatOverrun) s)) ∧
    (s.idx.toNat + rep ≤ s.hlit.toNat + s.hdist.toNat →
      ∃ lens : Vector (BitVec 4) 316,
        (∀ j, j < 316 → lens.toList[j]? =
          if s.idx.toNat ≤ j ∧ j < s.idx.toNat + rep then some val else s.lens.toList[j]?) ∧
        (s.idx.toNat + rep < s.hlit.toNat + s.hdist.toNat →
          exec i s = .next { s with lens := lens, idx := BitVec.ofNat 9 (s.idx.toNat + rep) }) ∧
        (s.idx.toNat + rep = s.hlit.toNat + s.hdist.toNat →
          exec i s = .next (completeTables { s with lens := lens, idx := BitVec.ofNat 9 (s.idx.toNat + rep) }))) ∧
    ∀ r : BitVec 2, s.idx = 0 → exec (.cl16 r) s = .next (raise (.corruptBlock .repeatNoPrev) s)

/-- R451, R452: a literal is delivered and the phase stays; while the output port takes no byte it changes nothing; EOB
ends the block. -/
def Obligations.LiteralIsDeliveredAndEobEndsTheBlock : Prop :=
  ∀ (s : State),
    (∀ b, s.outReady = true → exec (.lit b) s = .next (emit b s)) ∧
    (∀ b, s.outReady = false → exec (.lit b) s = .next s) ∧
    exec .eob s = .next (endOfBlock s)

/-- R460 to R488 up to the distance decode: the match length each length symbol stands for. That it waits in `matchLen`
for the distance symbol of the same step is the model's form of the local `len` (notes/assumptions/1.md). -/
def Obligations.LengthSymbolsGiveTheMatchLength : Prop :=
  ∀ s : State,
    let len := fun n : Nat => Host.Outcome.next (φ := Fault) (ρ := Refusal) { s with matchLen := some (BitVec.ofNat 9 n) }
    exec .len257 s = len 3 ∧ exec .len258 s = len 4 ∧ exec .len259 s = len 5 ∧ exec .len260 s = len 6 ∧
    exec .len261 s = len 7 ∧ exec .len262 s = len 8 ∧ exec .len263 s = len 9 ∧ exec .len264 s = len 10 ∧
    (∀ x, exec (.len265 x) s = len (11 + x.toNat)) ∧ (∀ x, exec (.len266 x) s = len (13 + x.toNat)) ∧
    (∀ x, exec (.len267 x) s = len (15 + x.toNat)) ∧ (∀ x, exec (.len268 x) s = len (17 + x.toNat)) ∧
    (∀ x, exec (.len269 x) s = len (19 + x.toNat)) ∧ (∀ x, exec (.len270 x) s = len (23 + x.toNat)) ∧
    (∀ x, exec (.len271 x) s = len (27 + x.toNat)) ∧ (∀ x, exec (.len272 x) s = len (31 + x.toNat)) ∧
    (∀ x, exec (.len273 x) s = len (35 + x.toNat)) ∧ (∀ x, exec (.len274 x) s = len (43 + x.toNat)) ∧
    (∀ x, exec (.len275 x) s = len (51 + x.toNat)) ∧ (∀ x, exec (.len276 x) s = len (59 + x.toNat)) ∧
    (∀ x, exec (.len277 x) s = len (67 + x.toNat)) ∧ (∀ x, exec (.len278 x) s = len (83 + x.toNat)) ∧
    (∀ x, exec (.len279 x) s = len (99 + x.toNat)) ∧ (∀ x, exec (.len280 x) s = len (115 + x.toNat)) ∧
    (∀ x, exec (.len281 x) s = len (131 + x.toNat)) ∧ (∀ x, exec (.len282 x) s = len (163 + x.toNat)) ∧
    (∀ x, exec (.len283 x) s = len (195 + x.toNat)) ∧ (∀ x, exec (.len284 x) s = len (227 + x.toNat)) ∧
    exec .len285 s = len 258

/-- R490 to R519: each distance symbol, with a match length of the same step before it, starts the copy when the history
reaches back far enough. -/
def Obligations.DistanceSymbolsStartTheCopy : Prop :=
  ∀ (s : State) (l : BitVec 9), s.matchLen = some l →
    let copies := fun (i : Instr) (d : Nat) => d ≤ s.hist.toNat → exec i s =
      .next { s with copyLen := l, copyDist := BitVec.ofNat 16 d, phase := .copy, matchLen := none }
    copies .dist0 1 ∧ copies .dist1 2 ∧ copies .dist2 3 ∧ copies .dist3 4 ∧
    (∀ x, copies (.dist4 x) (5 + x.toNat)) ∧ (∀ x, copies (.dist5 x) (7 + x.toNat)) ∧
    (∀ x, copies (.dist6 x) (9 + x.toNat)) ∧ (∀ x, copies (.dist7 x) (13 + x.toNat)) ∧
    (∀ x, copies (.dist8 x) (17 + x.toNat)) ∧ (∀ x, copies (.dist9 x) (25 + x.toNat)) ∧
    (∀ x, copies (.dist10 x) (33 + x.toNat)) ∧ (∀ x, copies (.dist11 x) (49 + x.toNat)) ∧
    (∀ x, copies (.dist12 x) (65 + x.toNat)) ∧ (∀ x, copies (.dist13 x) (97 + x.toNat)) ∧
    (∀ x, copies (.dist14 x) (129 + x.toNat)) ∧ (∀ x, copies (.dist15 x) (193 + x.toNat)) ∧
    (∀ x, copies (.dist16 x) (257 + x.toNat)) ∧ (∀ x, copies (.dist17 x) (385 + x.toNat)) ∧
    (∀ x, copies (.dist18 x) (513 + x.toNat)) ∧ (∀ x, copies (.dist19 x) (769 + x.toNat)) ∧
    (∀ x, copies (.dist20 x) (1025 + x.toNat)) ∧ (∀ x, copies (.dist21 x) (1537 + x.toNat)) ∧
    (∀ x, copies (.dist22 x) (2049 + x.toNat)) ∧ (∀ x, copies (.dist23 x) (3073 + x.toNat)) ∧
    (∀ x, copies (.dist24 x) (4097 + x.toNat)) ∧ (∀ x, copies (.dist25 x) (6145 + x.toNat)) ∧
    (∀ x, copies (.dist26 x) (8193 + x.toNat)) ∧ (∀ x, copies (.dist27 x) (12289 + x.toNat)) ∧
    (∀ x, copies (.dist28 x) (16385 + x.toNat)) ∧ (∀ x, copies (.dist29 x) (24577 + x.toNat))

/-- R520 to R523: the symbols that stand for nothing raise CorruptBlock at once. -/
def Obligations.InvalidSymbolsAreCorrupt : Prop :=
  ∀ (s : State),
    exec .ll286 s = .next (raise (.corruptBlock .llSymInvalid) s) ∧
    exec .ll287 s = .next (raise (.corruptBlock .llSymInvalid) s) ∧
    ∀ l : BitVec 9, s.matchLen = some l →
      exec .d30 s = .next (raise (.corruptBlock .dSymInvalid) s) ∧
      exec .d31 s = .next (raise (.corruptBlock .dSymInvalid) s)

/-- R620 after its reads: the trailer fields are recorded, the checksum is compared first, then the length. -/
def Obligations.TrailerIsComparedInOrder : Prop :=
  ∀ (crc isize : BitVec 32) (s : State),
    let u := { s with trlCrc := crc, trlIsize := isize }
    (crc = s.crc ^^^ 0xFFFFFFFF → isize = s.isize → exec (.gzTrailer crc isize) s = .next { u with phase := .done }) ∧
    (crc ≠ s.crc ^^^ 0xFFFFFFFF → exec (.gzTrailer crc isize) s = .next (raise .checksumMismatch u)) ∧
    (crc = s.crc ^^^ 0xFFFFFFFF → isize ≠ s.isize → exec (.gzTrailer crc isize) s = .next (raise .lengthMismatch u))

/-! ### The host's commands -/

/-- R652, R653, R760: START writes RAW and IRQ_EN and, in IDLE, DONE or ERROR, loads the START values of R55 with the
framing mode just written, keeping the window; while a session runs it writes the two fields only. The host's lines and
the model's own fields are kept (notes/assumptions/4.md, 6.md). -/
def Obligations.StartOpensASession : Prop :=
  ∀ (v : Word) (s : State), v.getLsbD 0 = true → v.getLsbD 1 = false →
    (restPhase s.phase = true → exec (.start v) s = .next { State.reset with
      phase := if v.getLsbD 2 then .blkHdr else .gzFixed
      modeRaw := v.getLsbD 2
      ctrlRaw := v.getLsbD 2
      ctrlIrqEn := v.getLsbD 3
      window := s.window
      outReady := s.outReady
      regRdata := s.regRdata
      inFlow := s.inFlow
      draws := s.draws
      wEpoch := s.wEpoch
      agenda := s.agenda }) ∧
    (restPhase s.phase = false →
      exec (.start v) s = .next { s with ctrlRaw := v.getLsbD 2, ctrlIrqEn := v.getLsbD 3 })

/-- R652, R654: SOFT_RESET acts in every phase, keeps CTRL as just written and the window, and when START is written
with it a session opens. The host's lines and the model's own fields are kept (notes/assumptions/4.md, 6.md). -/
def Obligations.SoftResetActsInEveryPhase : Prop :=
  ∀ (v : Word) (s : State), v.getLsbD 1 = true →
    exec (.softReset v) s = .next { State.reset with
      phase := if v.getLsbD 0 then (if v.getLsbD 2 then .blkHdr else .gzFixed) else .idle
      modeRaw := v.getLsbD 0 && v.getLsbD 2
      ctrlRaw := v.getLsbD 2
      ctrlIrqEn := v.getLsbD 3
      window := s.window
      outReady := s.outReady
      regRdata := s.regRdata
      inFlow := s.inFlow
      draws := s.draws
      wEpoch := s.wEpoch
      agenda := s.agenda }

/-- R652, R89, R157, R712: a write of CTRL without a command writes RAW and IRQ_EN only, a write of any other register
is ignored, and a misaligned one is refused. -/
def Obligations.OtherRegisterWritesAreIgnored : Prop :=
  ∀ (off : BitVec 6) (v : Word) (s : State),
    (off = 0 → v.getLsbD 0 = false → v.getLsbD 1 = false →
      exec (.regWrite off v) s = .next { s with ctrlRaw := v.getLsbD 2, ctrlIrqEn := v.getLsbD 3 }) ∧
    (off ≠ 0 → off.toNat % 4 = 0 → exec (.regWrite off v) s = .next s) ∧
    (off.toNat % 4 ≠ 0 → exec (.regWrite off v) s = .refused .badRegisterAccess)

/-- R651 with R164, R157: a register read answers the register; while a session runs, the registers and STATUS bits R164
lists are a free value (notes/assumptions/7.md) and CTRL, the rest of STATUS and the reserved offsets are exact; nothing
but the read data and the draw counter changes; a misaligned read is refused. -/
def Obligations.RegisterReadsAnswerTheRegister : Prop :=
  ∀ (off : BitVec 6) (s : State),
    (off.toNat % 4 ≠ 0 → exec (.regRead off) s = .refused .badRegisterAccess) ∧
    (off.toNat % 4 = 0 → ∃ (d : Word) (n : Nat), exec (.regRead off) s = .next { s with regRdata := d, draws := n } ∧
      (off = 0x00 → d = 0#28 ++ (BitVec.ofBool s.ctrlIrqEn ++ (BitVec.ofBool s.ctrlRaw ++ 0#2))) ∧
      (off = 0x04 → d &&& 0xFFFFE0FF = statusWord s &&& 0xFFFFE0FF) ∧
      (0x2C ≤ off.toNat → d = 0) ∧
      (restPhase s.phase = true → n = s.draws ∧
        (off = 0x04 → d = statusWord s) ∧
        (off = 0x08 → d = 0#15 ++ (BitVec.ofBool s.errOrigin ++ (s.errDetail ++ (0#4 ++ s.errCode)))) ∧
        (off = 0x0C → d = s.crc ^^^ 0xFFFFFFFF) ∧ (off = 0x10 → d = s.isize) ∧ (off = 0x14 → d = s.trlCrc) ∧
        (off = 0x18 → d = s.trlIsize) ∧ (off = 0x1C → d.toNat = s.ip % 4294967296) ∧
        (off = 0x20 → d = s.hdrOs ++ (s.hdrXfl ++ (s.hdrFlg ++ s.hdrCm))) ∧ (off = 0x24 → d = s.hdrMtime) ∧
        (off = 0x28 → d = s.hcrcCalc ++ s.hcrcField)))

/-- R655, R657, R661: a pushed byte is appended to the input while in_ready is 1, EndInput sets in_end while a session
runs, and where a transfer is not enabled nothing changes (the last is notes/assumptions/9.md); in_ready is 0 outside a
session and after the end of input, and 1 while a step is held on input (the model's form of R661's "in finite time",
notes/assumptions/5.md). -/
def Obligations.InputPortTakesBytesAndTheEndOfInput : Prop :=
  ∀ (b : Byte) (s : State),
    (inReady s = true → exec (.pushByte b) s = .next { s with inBytes := s.inBytes ++ [b] }) ∧
    (inReady s = false → exec (.pushByte b) s = .next s) ∧
    (restPhase s.phase = true ∨ s.inEnd = true → inReady s = false) ∧
    (restPhase s.phase = false → s.inEnd = false → heldOnInput s = true → inReady s = true) ∧
    (restPhase s.phase = false → s.inEnd = false → exec .endInput s = .next { s with inEnd := true }) ∧
    (restPhase s.phase = true ∨ s.inEnd = true → exec .endInput s = .next s)

/-- R662: where a byte is offered and `out_ready` is 1, the transfer delivers that byte and the emitting step is complete.
That OutAccept and the engine's own turn are the same step, and that OutAccept keeps `out_ready`, is the model's reading
(notes/assumptions/14.md); that OutAccept otherwise changes nothing is its choice (notes/assumptions/9.md). `out_valid` is 1 exactly in COPY and where the element at the position is a literal or a
stored byte, which is, from a legal state, exactly where the engine's step would deliver a byte if `out_ready` were 1;
the byte offered is that byte, and it does not depend on `out_ready`. -/
def Obligations.OutAcceptCompletesTheEmittingStep : Prop :=
  ∀ s : State,
    (s.outReady = true → outValid s = true →
      ∃ (b : Byte) (u t : State), offered s = some (b, u) ∧ t = emit b u ∧ t.outBytes = s.outBytes ++ [b] ∧
        exec .outAccept s = .next t ∧ engineStep s = .next t) ∧
    (s.outReady = false ∨ outValid s = false → exec .outAccept s = .next s) ∧
    (outValid s = true ↔ s.phase = .copy ∨
      ∃ x b c, expected s = some x ∧
        (decode x (cursorOf s) = .elem [.lit b] c ∨ decode x (cursorOf s) = .elem [.storedCopy b] c)) ∧
    (Legal s → ∀ b,
      ((offered s).map Prod.fst = some b ↔
        ∃ t, engineStep { s with outReady := true } = .next t ∧ t.outBytes = s.outBytes ++ [b])) ∧
    ∀ r, (offered { s with outReady := r }).map Prod.fst = (offered s).map Prod.fst

/-- R751: after HardReset every register reads 0 and in_ready, out_valid and irq are 0. -/
def Obligations.RegistersReadZeroAfterReset : Prop :=
  ∀ s : State, ∃ t, exec .hardReset s = .next t ∧
    (∀ off : BitVec 6, off.toNat % 4 = 0 → ∃ u, exec (.regRead off) t = .next u ∧ u.regRdata = 0) ∧
    inReady t = false ∧ outValid t = false ∧ irq t = false

/-- R750, R752, R55: the state after HardReset, from any state: every field of st at its reset value, the ports empty,
and no window byte with a value the model fixes. The host's lines and the model's own fields are kept
(notes/assumptions/4.md, 6.md, 8.md). -/
def Obligations.HardResetRestoresEveryField : Prop :=
  ∀ s : State,
    exec .hardReset s = .next { State.reset with
      outReady := s.outReady
      regRdata := s.regRdata
      inFlow := s.inFlow
      draws := s.draws
      wEpoch := s.wEpoch + 1
      agenda := s.agenda } ∧
    State.reset.phase = .idle ∧ State.reset.bitpos = 8 ∧ State.reset.bitbuf = 0 ∧ State.reset.hcrcAcc = 0xFFFFFFFF ∧
    State.reset.crc = 0xFFFFFFFF ∧ State.reset.wpos = 0 ∧ State.reset.hist = 0 ∧ State.reset.inBytes = [] ∧
    State.reset.inEnd = false ∧ State.reset.outBytes = [] ∧ State.reset.ctrlRaw = false ∧
    State.reset.ctrlIrqEn = false ∧
    ∀ t, exec .hardReset s = .next t → ∀ a, windowRead t a = Config.windowUnspec t.wEpoch a

/-! ### The step, the turns and the outputs -/

/-- Words written out from the spec's encodings, field by field, decode to the elements they stand for (R200 to R211,
R410, R411; the examples of R350, R355, R405, R420, R421, R450, R620), and two writes of CTRL (R242, R652). The write 0x3
matches the rows START and SOFT_RESET both (R242), and that it decodes to SOFT_RESET is the model's reading
(notes/assumptions/10.md); that a length and a distance symbol are two instructions of one element is its form of R453
(notes/assumptions/1.md). -/
def Obligations.WrittenOutWordsDecodeToTheirElements : Prop :=
  decode .gzFixed ⟨0, 8, [0x1F, 0x8B, 0x08, 0x1E, 0x01, 0x02, 0x03, 0x04, 0x05, 0x06]⟩ =
    .elem [.gzFixed 0x1E 0x04030201 0x05 0x06] ⟨0, 8, []⟩ ∧
  decode .blkHdr ⟨0, 8, [0x01]⟩ = .elem [.blkStored true] ⟨0x01, 3, []⟩ ∧
  decode .storedLen ⟨0x01, 3, [0x05, 0x00, 0xFA, 0xFF]⟩ = .elem [.storedLen 5 0xFFFA] ⟨0x01, 8, []⟩ ∧
  decode .dynHdr ⟨0, 8, [0x00, 0x38]⟩ = .elem [.dynHdr 0 0 14] ⟨0x38, 6, []⟩ ∧
  decode (.dynCllens 4) ⟨0, 8, [0x82, 0x02]⟩ = .elem [.dynCllens [2, 0, 2, 1]] ⟨0x02, 4, []⟩ ∧
  decode (.clSym [1, 0, 0, 0, 0, 0, 0, 0, 0, 0, 0, 0, 0, 0, 0, 0, 2, 0, 2]) ⟨0, 8, [0x05]⟩ =
    .elem [.cl16 1] ⟨0x05, 4, []⟩ ∧
  decode (.llSym fixedLlLens fixedDLens) ⟨0, 8, [0x8E]⟩ = .elem [.lit 0x41] ⟨0x8E, 8, []⟩ ∧
  decode (.llSym fixedLlLens fixedDLens) ⟨0, 8, [0x00]⟩ = .elem [.eob] ⟨0x00, 7, []⟩ ∧
  decode (.llSym fixedLlLens fixedDLens) ⟨0, 8, [0x40, 0x00]⟩ = .elem [.len257, .dist0] ⟨0x00, 4, []⟩ ∧
  decode (.llSym fixedLlLens fixedDLens) ⟨0, 8, [0xC8, 0x04]⟩ = .elem [.len265 1, .dist4 0] ⟨0x04, 6, []⟩ ∧
  decode .trailer ⟨0, 5, [0x86, 0xA6, 0x10, 0x36, 0x05, 0x00, 0x00, 0x00]⟩ =
    .elem [.gzTrailer 0x3610A686 5] ⟨0, 8, []⟩ ∧
  (List.range 8).map (codeBits [3, 3, 3, 3, 3, 2, 4, 4]) =
    [[false, true, false], [false, true, true], [true, false, false], [true, false, true], [true, true, false],
      [false, false], [true, true, true, false], [true, true, true, true]] ∧
  decodeHost (.regWrite 0 0x5) = .command (.start 0x5) ∧ decodeHost (.regWrite 0 0x3) = .command (.softReset 0x3)

/-- R52, R99: where the bits at the position decode to an element, the engine's step is the meaning of its instructions,
run at the state with those bits consumed and nothing else changed, whether the agenda is empty or gives the engine its
turn (notes/assumptions/2.md); an element of two instructions runs the one, then the other (R453). The last clause says
what consuming the bits changes. -/
def Obligations.StepRunsTheDecodedElement : Prop :=
  ∀ (s : State) (x : Expect) (is : List Instr) (c : Cursor),
    expected s = some x → decode x (cursorOf s) = .elem is c → (s.outReady = true ∨ is.any emits = false) →
    (s.agenda = [] → step s = execAll is (advanceTo c s)) ∧
    (∀ rest, s.agenda = .engine :: rest → step s = execAll is (advanceTo c { s with agenda := rest })) ∧
    (∀ i u, execAll [i] u = exec i u) ∧
    (∀ i j u v, exec i u = .next v → execAll [i, j] u = exec j v) ∧
    (Legal s → Took ((elementStart x (cursorOf s)).bits.take
        ((elementStart x (cursorOf s)).bits.length - c.bits.length))
      (if x = .storedLen ∨ x = .trailer then { s with bitpos := 8 } else s) (advanceTo c s) ∧
      cursorOf (advanceTo c s) = c)

/-- R99, R300, R657, R660, R662, R404: the steps that do not run an element. One that needs a byte that is not there
leaves the state unchanged, and after the end of input it raises UnexpectedEndOfInput; one whose bits are no element
raises its error, with the bits it read consumed and the fields it captured kept; one that emits leaves the state
unchanged while `out_ready` is 0. Then, for every legal state, what the fields hold after UnexpectedEndOfInput inside an
element: all input is consumed and, of the element, exactly the fields whose reads were whole are written (R18, R705:
HDR0.CM, FLG, HDR_MTIME and XFL of a fixed header, hlit and hdist of a dynamic header, the cl_lens read so far with
the others 0, TRL_CRC of a trailer; no field of any other element). Which fields are kept is the model's reading,
notes/assumptions/11.md. -/
def Obligations.HeldStepsChangeNothing : Prop :=
  (∀ (s : State) (x : Expect), expected s = some x →
    (∀ k c, decode x (cursorOf s) = .short k c →
      (s.inEnd = false → heldOnInput s = true ∧ engineStep s = .next s) ∧
      (s.inEnd = true → heldOnInput s = false ∧
        engineStep s = .next (raise .unexpectedEndOfInput (applyCapture k (advanceTo c s))))) ∧
    (∀ e k c, decode x (cursorOf s) = .illegal e k c →
      heldOnInput s = false ∧ engineStep s = .next (raise e (applyCapture k (advanceTo c s)))) ∧
    (∀ is c, decode x (cursorOf s) = .elem is c → is.any emits = true → s.outReady = false → engineStep s = .next s)) ∧
  ∀ s : State, Legal s → s.inEnd = true →
    (∀ l, s.inBytes.drop s.ip = l →
      s.phase = .gzFixed → l.length < 10 → l.length < 2 ∨ l.take 3 <+: [0x1F, 0x8B, 0x08] →
      engineStep s = .next (raise .unexpectedEndOfInput { s with
        ip := s.inBytes.length
        hcrcAcc := l.foldl crcStep s.hcrcAcc
        hdrCm := if 3 ≤ l.length then 8 else s.hdrCm
        hdrFlg := if 4 ≤ l.length then l.getD 3 0 else s.hdrFlg
        hdrMtime := if 8 ≤ l.length then leU32 (l.getD 4 0) (l.getD 5 0) (l.getD 6 0) (l.getD 7 0) else s.hdrMtime
        hdrXfl := if 9 ≤ l.length then l.getD 8 0 else s.hdrXfl })) ∧
    (∀ l, (cursorOf s).bits = l →
      s.phase = .dynHdr → l.length < 14 →
      ∃ u, Took l s u ∧ engineStep s = .next (raise .unexpectedEndOfInput { u with
        hlit := if 5 ≤ l.length then BitVec.ofNat 9 (bitsValue (l.take 5) + 257) else s.hlit
        hdist := if 10 ≤ l.length then BitVec.ofNat 6 (bitsValue ((l.drop 5).take 5) + 1) else s.hdist })) ∧
    (∀ l, (cursorOf s).bits = l →
      s.phase = .dynCllens → l.length < 3 * s.hclen.toNat →
      ∃ (u : State) (cl : Vector (BitVec 3) 19), Took l s u ∧
        (∀ k, k < 19 → cl.toList[clOrder.getD k 0]? = some
          (if 3 * k + 3 ≤ l.length then BitVec.ofNat 3 (bitsValue ((l.drop (3 * k)).take 3)) else 0)) ∧
        engineStep s = .next (raise .unexpectedEndOfInput { u with clLens := cl })) ∧
    (∀ l, s.inBytes.drop s.ip = l →
      s.phase = .trailer → l.length < 8 →
      engineStep s = .next (raise .unexpectedEndOfInput { s with
        ip := s.inBytes.length
        bitpos := 8
        trlCrc := if 4 ≤ l.length then leU32 (l.getD 0 0) (l.getD 1 0) (l.getD 2 0) (l.getD 3 0) else s.trlCrc })) ∧
    (∀ x k c, expected s = some x → decode x (cursorOf s) = .short k c →
      s.phase ≠ .gzFixed → s.phase ≠ .dynHdr → s.phase ≠ .dynCllens → s.phase ≠ .trailer →
      ∃ u, Took (elementStart x (cursorOf s)).bits (if x = .storedLen then { s with bitpos := 8 } else s) u ∧
        engineStep s = .next (raise .unexpectedEndOfInput u))

/-- R99, R650: the host's turn runs the command its transfer decodes to, or sets the level of `out_ready`; an access
R157 refuses is refused; the flow control level is an input (U10). A bus read of a register is RegRead at its offset,
and byte `k` of its data is bits 8k+7 to 8k of the word read (R154). The schedule is the model's form of R99's
interleaving (notes/assumptions/2.md, 5.md); that a bus access is a transfer of this engine's, and that one outside the
register block is refused, are the model's (notes/assumptions/12.md). -/
def Obligations.HostTurnRunsItsCommand : Prop :=
  ∀ (s : State) (rest : List Turn) (g : Signal), s.agenda = .host g :: rest →
    (∀ i, decodeHost g = .command i → step s = exec i { s with agenda := rest }) ∧
    (∀ b, g = .outReady b → step s = .next { s with agenda := rest, outReady := b }) ∧
    (decodeHost g = .badAccess → step s = .refused .badRegisterAccess) ∧
    (decodeHost g = .elsewhere → step s = .refused .notRegisterBlock) ∧
    (∀ off : BitVec 6, off.toNat % 4 = 0 → g = .memRead (Config.regBase + off.toNat) 4 →
      ∃ t, step s = .next t ∧ exec (.regRead off) { s with agenda := rest } = .next t ∧ (busRdata t).length = 4 ∧
        ∀ k, k < 4 → (busRdata t)[k]? = some (t.regRdata.extractLsb' (8 * k) 8)) ∧
    ∀ b, step { s with agenda := .inFlow b :: rest } = .next { s with agenda := rest, inFlow := b }

/-- R706, R709: in ERROR no step changes anything, no input is taken and no output is offered, and whatever the host does
the phase and the error fields stay until START, SOFT_RESET or hardware reset. -/
def Obligations.ErrorIsTerminal : Prop :=
  ∀ s : State, s.phase = .error →
    engineStep s = .next s ∧ inReady s = false ∧ outValid s = false ∧
    ∀ t, step s = .next t →
      (t.phase = .error ∧ t.errCode = s.errCode ∧ t.errDetail = s.errDetail ∧ t.errOrigin = s.errOrigin ∧
        t.ip = s.ip ∧ t.outBytes = s.outBytes ∧ t.inBytes = s.inBytes) ∨
      ∃ g rest, s.agenda = .host g :: rest ∧
        (decodeHost g = .command .hardReset ∨ (∃ v, decodeHost g = .command (.start v)) ∨
          ∃ v, decodeHost g = .command (.softReset v))

/-- R710: the interrupt output is a level, and each of the ways R710 gives clears it. -/
def Obligations.InterruptIsALevel : Prop :=
  ∀ s : State,
    (irq s = true ↔ s.ctrlIrqEn = true ∧ (s.phase = .done ∨ s.phase = .error)) ∧
    (∀ v t, Instr.wf (.start v) = true → exec (.start v) s = .next t → irq t = false) ∧
    (∀ v t, Instr.wf (.softReset v) = true → exec (.softReset v) s = .next t → irq t = false) ∧
    (∀ t, exec .hardReset s = .next t → irq t = false) ∧
    ∀ v t, v.getLsbD 3 = false → exec (.regWrite 0 v) s = .next t → irq t = false

/-- R65 to R75, R52: where each field of STATUS stands and what it reads, with the numbers of the phases; the register
is 0 at reset. -/
def Obligations.StatusFieldsReadTheirState : Prop :=
  (∀ s : State,
    (statusWord s).extractLsb' 0 5 = phaseCode s.phase ∧
    (statusWord s).getLsbD 5 = !(s.phase == .idle || s.phase == .done || s.phase == .error) ∧
    (statusWord s).getLsbD 6 = (s.phase == .done) ∧
    (statusWord s).getLsbD 7 = (s.phase == .error) ∧
    (statusWord s).getLsbD 8 = s.bfinal ∧
    (statusWord s).extractLsb' 9 2 = s.btype ∧
    (statusWord s).getLsbD 11 = s.warnHcrc ∧
    (statusWord s).getLsbD 12 = s.warnFlg ∧
    (statusWord s).getLsbD 13 = s.modeRaw ∧
    (statusWord s).getLsbD 14 = (s.ctrlIrqEn && (s.phase == .done || s.phase == .error)) ∧
    (statusWord s).extractLsb' 15 17 = 0) ∧
  statusWord State.reset = 0 ∧
  [Phase.idle, .gzFixed, .gzXlen, .gzExtra, .gzName, .gzComment, .gzHcrc, .blkHdr, .storedLen, .storedCopy, .dynHdr,
    .dynCllens, .dynLens, .symbol, .copy, .trailer, .done, .error].map (fun p => (phaseCode p).toNat) = List.range 18

/-! ### The step rules, from the bits of the stream -/

/-- R410, R411: the lengths and the codes of the fixed tables, and that both are complete. -/
def Obligations.FixedTablesHaveTheirCodes : Prop :=
  (∀ s, s < 144 → codeBits fixedLlLens s = msbBits 8 (0b00110000 + s)) ∧
  (∀ s, 144 ≤ s → s < 256 → codeBits fixedLlLens s = msbBits 9 (0b110010000 + (s - 144))) ∧
  (∀ s, 256 ≤ s → s < 280 → codeBits fixedLlLens s = msbBits 7 (s - 256)) ∧
  (∀ s, 280 ≤ s → s < 288 → codeBits fixedLlLens s = msbBits 8 (0b11000000 + (s - 280))) ∧
  (∀ d, d < 32 → codeBits fixedDLens d = msbBits 5 d) ∧
  fixedLlLens.length = 288 ∧ fixedDLens.length = 32 ∧
  patternsTaken fixedLlLens 15 = 2 ^ 15 ∧ patternsTaken fixedDLens 15 = 2 ^ 15

/-- R303, R151: ReadBits(n) is the next `n` bits with the first as bit 0, and leaves the bits after them; where fewer are
left it runs out, having consumed them. -/
def Obligations.ReadBitsTakesTheNextBits : Prop :=
  ∀ (n : Nat) (c : Cursor), n ≤ 16 → 1 ≤ c.bitpos.toNat → c.bitpos.toNat ≤ 8 →
    (∀ bs rest, bs.length = n → c.bits = bs ++ rest →
      ∃ c', readBits n c = .ok (BitVec.ofNat n (bitsValue bs)) c' ∧ c'.bits = rest) ∧
    (c.bits.length < n → ∃ c', readBits n c = .short c' ∧ c'.bits = [])

/-- R350, R351 to R354, R204: step BLK_HDR from the three bits at the position: BFINAL first, then BTYPE, low bit first. -/
def Obligations.BlockHeaderStepReadsThreeBits : Prop :=
  ∀ s : State, LegalValues s → s.agenda = [] → s.phase = .blkHdr →
    (∀ f t0 t1 rest, (cursorOf s).bits = f :: t0 :: t1 :: rest → ∃ u, Took [f, t0, t1] s u ∧
      (t1 = false → t0 = false → step s = .next { u with bfinal := f, btype := 0b00, phase := .storedLen }) ∧
      (t1 = false → t0 = true →
        step s = .next { u with bfinal := f, btype := 0b01, tblFixed := true, phase := .symbol }) ∧
      (t1 = true → t0 = false → step s = .next { u with bfinal := f, btype := 0b10, phase := .dynHdr }) ∧
      (t1 = true → t0 = true →
        step s = .next (raise (.corruptBlock .btypeReserved) { u with bfinal := f, btype := 0b11 }))) ∧
    ((cursorOf s).bits.length < 3 →
      (s.inEnd = false → step s = .next s) ∧
      (s.inEnd = true → ∃ u, Took (cursorOf s).bits s u ∧ step s = .next (raise .unexpectedEndOfInput u)))

/-- R600, R201, R607: step GZ_FIXED from the bytes of the input: the ten bytes of the header, the magic rejected after
two bytes, the method after three with HDR0.CM recorded, and an input that ends inside the ten bytes. -/
def Obligations.FixedHeaderStepReadsTenBytes : Prop :=
  ∀ s : State, LegalValues s → s.agenda = [] → s.phase = .gzFixed → s.bitpos = 8 →
    (∀ flg m0 m1 m2 m3 xfl os rest,
      s.inBytes.drop s.ip = 0x1F :: 0x8B :: 0x08 :: flg :: m0 :: m1 :: m2 :: m3 :: xfl :: os :: rest →
      step s = .next (nextHeaderField .fixed { s with
        ip := s.ip + 10
        hcrcAcc := [0x1F, 0x8B, 0x08, flg, m0, m1, m2, m3, xfl, os].foldl crcStep s.hcrcAcc
        hdrCm := 8
        hdrFlg := flg
        hdrMtime := leU32 m0 m1 m2 m3
        hdrXfl := xfl
        hdrOs := os
        warnFlg := decide (flg.extractLsb' 5 3 ≠ 0) })) ∧
    (∀ id1 id2 rest, s.inBytes.drop s.ip = id1 :: id2 :: rest → id1 ≠ 0x1F ∨ id2 ≠ 0x8B →
      step s = .next (raise .invalidMagic { s with
        ip := s.ip + 2
        hcrcAcc := [id1, id2].foldl crcStep s.hcrcAcc })) ∧
    (∀ cm rest, s.inBytes.drop s.ip = 0x1F :: 0x8B :: cm :: rest → cm ≠ 8 →
      step s = .next (raise .unsupportedMethod { s with
        ip := s.ip + 3
        hcrcAcc := [0x1F, 0x8B, cm].foldl crcStep s.hcrcAcc
        hdrCm := cm })) ∧
    ((s.inBytes.drop s.ip).length < 10 →
      ((s.inBytes.drop s.ip).length < 2 ∨ (s.inBytes.drop s.ip).take 3 <+: [0x1F, 0x8B, 0x08]) →
      (s.inEnd = false → step s = .next s) ∧
      (s.inEnd = true → ∃ t, step s = .next t ∧ t.phase = .error ∧ t.errCode = 7 ∧ t.errDetail = 0 ∧
        t.errOrigin = false ∧ t.ip = s.inBytes.length ∧ t.outBytes = s.outBytes))

/-- R620, R211: step TRAILER from the bytes after the alignment: both fields are read before either is compared, the
checksum is compared first, and an input that ends inside the eight bytes is UnexpectedEndOfInput whatever they show. -/
def Obligations.TrailerStepReadsEightBytes : Prop :=
  ∀ s : State, LegalValues s → s.agenda = [] → s.phase = .trailer →
    (∀ c0 c1 c2 c3 n0 n1 n2 n3 rest,
      s.inBytes.drop s.ip = c0 :: c1 :: c2 :: c3 :: n0 :: n1 :: n2 :: n3 :: rest →
      let u := { s with
        ip := s.ip + 8
        bitpos := 8
        trlCrc := leU32 c0 c1 c2 c3
        trlIsize := leU32 n0 n1 n2 n3 }
      (leU32 c0 c1 c2 c3 ≠ s.crc ^^^ 0xFFFFFFFF → step s = .next (raise .checksumMismatch u)) ∧
      (leU32 c0 c1 c2 c3 = s.crc ^^^ 0xFFFFFFFF → leU32 n0 n1 n2 n3 ≠ s.isize →
        step s = .next (raise .lengthMismatch u)) ∧
      (leU32 c0 c1 c2 c3 = s.crc ^^^ 0xFFFFFFFF → leU32 n0 n1 n2 n3 = s.isize →
        step s = .next { u with phase := .done })) ∧
    ((s.inBytes.drop s.ip).length < 8 →
      (s.inEnd = false → step s = .next s) ∧
      (s.inEnd = true → ∃ t, step s = .next t ∧ t.phase = .error ∧ t.errCode = 7 ∧ t.errDetail = 0 ∧
        t.errOrigin = false ∧ t.ip = s.inBytes.length ∧ t.bitpos = 8 ∧ t.outBytes = s.outBytes))

/-- R451 in a fixed block: the 8-bit codes of literals 0 to 143 and the 9-bit codes of 144 to 255 emit the byte, and the
phase stays SYMBOL. -/
def Obligations.FixedBlockLiteralIsEmitted : Prop :=
  ∀ (s : State) (b : Byte) (rest : List Bool), LegalValues s → s.agenda = [] → s.phase = .symbol → s.tblFixed = true →
    let code := if b.toNat < 144 then msbBits 8 (0b00110000 + b.toNat) else msbBits 9 (0b110010000 + (b.toNat - 144))
    (cursorOf s).bits = code ++ rest →
    (s.outReady = true → ∃ u, Took code s u ∧ step s = .next (emit b u) ∧ (emit b u).phase = .symbol) ∧
    (s.outReady = false → step s = .next s)

/-- R453, R554, R460 to R488, R490 to R519 as pairs: a length symbol and the distance symbol after it start the copy when
the distance is within the history, raise WindowUnderflow when it is beyond it, and raise CorruptBlock for distance
symbols 30 and 31; no byte is emitted. A distance symbol is no element of its own (R210): without the length symbol of
the same step the model stops with its fault (notes/assumptions/1.md). -/
def Obligations.LengthDistancePairStartsTheCopy : Prop :=
  (∀ (s : State) (i j : Instr) (n : Nat), matchLengthOf i = some n →
    (3 ≤ n ∧ n ≤ 258) ∧
    (∀ d, matchDistanceOf j = some d →
      (1 ≤ d ∧ d ≤ 32768) ∧
      (d ≤ s.hist.toNat → execAll [i, j] s = .next { s with
        copyLen := BitVec.ofNat 9 n
        copyDist := BitVec.ofNat 16 d
        phase := .copy
        matchLen := none }) ∧
      (s.hist.toNat < d → execAll [i, j] s = .next (raise .windowUnderflow s))) ∧
    (j = .d30 ∨ j = .d31 → execAll [i, j] s = .next (raise (.corruptBlock .dSymInvalid) s))) ∧
  ∀ (s : State) (j : Instr), s.matchLen = none → j.format = .dSym → exec j s = .fault .distanceWithoutLength

/-- R555, R90: step COPY reads the window `copy_dist` behind the current position, counts the byte and emits it, holding
while `out_ready` is 0; it reads no input. -/
def Obligations.CopyStepCopiesOneByte : Prop :=
  ∀ s : State, s.agenda = [] → s.phase = .copy → s.copyDist.toNat ≤ 32768 →
    (s.outReady = true → s.copyLen ≠ 1 →
      step s = .next (emit (windowRead s ((s.wpos.toNat + 32768 - s.copyDist.toNat) % 32768))
        { s with copyLen := s.copyLen - 1 })) ∧
    (s.outReady = true → s.copyLen = 1 →
      step s = .next (emit (windowRead s ((s.wpos.toNat + 32768 - s.copyDist.toNat) % 32768))
        { s with copyLen := 0, phase := .symbol })) ∧
    (s.outReady = false → step s = .next s)

/-! ### Codes -/

/-- R401, R403: the verdict of Build is that the codes of these lengths would take more than all the bit patterns. -/
def Obligations.OversubscribedMeansTooManyPatterns : Prop :=
  ∀ (lens : List Nat) (maxbits : Nat),
    oversubscribed lens maxbits = true ↔ 2 ^ maxbits < patternsTaken lens maxbits

/-- R404: bits that are no code of a table are reported after exactly `maxbits` bits, and only of an incomplete table: a
complete one never reports them. And what a step then does (R422, R450, R453, R701): where the bits read begin with no
code, it raises CorruptBlock with CL_NOCODE after 7 bits, with LL_NOCODE after 15, or, after the length symbol and its
extra bits, with D_NOCODE after 15 more; those bits are consumed and nothing else is written. -/
def Obligations.OnlyIncompleteTablesRejectBits : Prop :=
  (∀ (lens : List Nat) (maxbits : Nat) (c c' : Cursor), oversubscribed lens maxbits = false →
    1 ≤ c.bitpos.toNat → c.bitpos.toNat ≤ 8 → huffDecode (buildTable lens maxbits) c = .ok none c' →
    patternsTaken lens maxbits < 2 ^ maxbits ∧ ∃ bs, bs.length = maxbits ∧ c.bits = bs ++ c'.bits) ∧
  ∀ (s : State) (bs rest : List Bool), Legal s →
    (s.phase = .dynLens → (cursorOf s).bits = bs ++ rest → bs.length = 7 →
      (∀ c, hasCode (clLengths s) 7 c → ¬ codeBits (clLengths s) c <+: bs) →
      ∃ u, Took bs s u ∧ engineStep s = .next (raise (.corruptBlock .clNocode) u)) ∧
    (s.phase = .symbol → (cursorOf s).bits = bs ++ rest → bs.length = 15 →
      (∀ l, hasCode (blockLlLengths s) 15 l → ¬ codeBits (blockLlLengths s) l <+: bs) →
      ∃ u, Took bs s u ∧ engineStep s = .next (raise (.corruptBlock .llNocode) u)) ∧
    ∀ (l : Nat) (ext : List Bool), 257 ≤ l → l ≤ 285 → hasCode (blockLlLengths s) 15 l →
      ext.length = lengthExtra.getD (l - 257) 0 → s.phase = .symbol →
      (cursorOf s).bits = codeBits (blockLlLengths s) l ++ (ext ++ (bs ++ rest)) → bs.length = 15 →
      (∀ d, hasCode (blockDLengths s) 15 d → ¬ codeBits (blockDLengths s) d <+: bs) →
      ∃ u, Took (codeBits (blockLlLengths s) l ++ (ext ++ bs)) s u ∧
        engineStep s = .next (raise (.corruptBlock .dNocode) u)

/-- R402: the canonical construction, and that Decode answers a symbol exactly when the next bits, most significant
first, spell its code. -/
def Obligations.DecodeAnswersExactlyTheCodes : Prop :=
  (∀ lens l, firstCode lens (l + 1) = 2 * (firstCode lens l + if l = 0 then 0 else lens.count l)) ∧
  (∀ lens s, codeOf lens s = firstCode lens (lens.getD s 0) + (lens.take s).count (lens.getD s 0)) ∧
  ∀ (lens : List Nat) (maxbits s : Nat) (c : Cursor), oversubscribed lens maxbits = false →
    1 ≤ c.bitpos.toNat → c.bitpos.toNat ≤ 8 →
    ((∃ c', huffDecode (buildTable lens maxbits) c = .ok (some s) c') ↔
      hasCode lens maxbits s ∧ codeBits lens s <+: c.bits) ∧
    ∀ c', huffDecode (buildTable lens maxbits) c = .ok (some s) c' → c.bits = codeBits lens s ++ c'.bits

/-! ### The whole machine -/

/-- R242, R652 to R662, R154, R157, R160: every well-formed host command is carried by its transfer, a bus access of 4
bytes at a register is the same command as the register transfer at its offset, a write with byte `k` on bits 8k+7 to 8k
of the word, and what a transfer decodes to is well formed. That bus accesses decode as register transfers, are judged
by their first address and are no access to this engine outside the block is the model's choice
(notes/assumptions/12.md), and so is the split of CTRL writes into the rows START, SOFT_RESET and RegWrite
(notes/assumptions/10.md). -/
def Obligations.HostTransfersDecodeAsEncoded : Prop :=
  (∀ i : Instr, i.wf = true → i.format = .host → ∃ g, encodeHost i = some g ∧ decodeHost g = .command i) ∧
  (∀ (off : BitVec 6) (b0 b1 b2 b3 : Byte), off.toNat % 4 = 0 →
    decodeHost (.memWrite (Config.regBase + off.toNat) [b0, b1, b2, b3]) =
      decodeHost (.regWrite off (leU32 b0 b1 b2 b3)) ∧
    decodeHost (.memRead (Config.regBase + off.toNat) 4) = decodeHost (.regRead off)) ∧
  (∀ (addr n : Nat) (data : List Byte), data.length = n → Config.regBase ≤ addr → addr < Config.regBase + 64 →
    n ≠ 4 ∨ (addr - Config.regBase) % 4 ≠ 0 →
    decodeHost (.memWrite addr data) = .badAccess ∧ decodeHost (.memRead addr n) = .badAccess) ∧
  (∀ (addr n : Nat) (data : List Byte), addr < Config.regBase ∨ Config.regBase + 64 ≤ addr →
    decodeHost (.memWrite addr data) = .elsewhere ∧ decodeHost (.memRead addr n) = .elsewhere) ∧
  ∀ (g : Signal) (i : Instr), decodeHost g = .command i → i.wf = true ∧ i.format = .host

/-- R166, R159, R709: a host command other than START, SOFT_RESET and hardware reset changes nothing that decoding reads:
it can append to the input, end it, complete an emitting step (OutAccept), read a register or write RAW and IRQ_EN, and
nothing else. Which writes of CTRL are the row RegWrite is notes/assumptions/10.md, and that OutAccept is the engine's
own step is notes/assumptions/14.md. -/
def Obligations.HostCannotChangeWhatIsDecoded : Prop :=
  ∀ (i : Instr) (s t : State), i.wf = true → i.format = .host →
    (∀ v, i ≠ .start v) → (∀ v, i ≠ .softReset v) → i ≠ .hardReset → i ≠ .outAccept → exec i s = .next t →
    ∃ l : List Byte, t = { s with
      ctrlRaw := t.ctrlRaw
      ctrlIrqEn := t.ctrlIrqEn
      inBytes := s.inBytes ++ l
      inEnd := t.inEnd
      regRdata := t.regRdata
      draws := t.draws } ∧ (s.inEnd = true → t.inEnd = true ∧ l = [])

/-- The frame of every stream element, with the fields each group may write: no element touches the host's registers,
the ports' lines or the position but the alignment of a block's end (R359), only an emitting element changes the output,
the window, the history or the accumulators (R90, R309, R551), and the captured fields are written by the elements R55
names. -/
def Obligations.ElementsWriteOnlyTheirFields : Prop :=
  ∀ (i : Instr) (s t : State), i.format ≠ .host → exec i s = .next t →
    (t.ctrlRaw = s.ctrlRaw ∧ t.ctrlIrqEn = s.ctrlIrqEn ∧ t.modeRaw = s.modeRaw ∧ t.ip = s.ip ∧ t.bitbuf = s.bitbuf ∧
      t.hcrcAcc = s.hcrcAcc ∧ t.inBytes = s.inBytes ∧ t.inEnd = s.inEnd ∧ t.outReady = s.outReady ∧
      t.regRdata = s.regRdata ∧ t.inFlow = s.inFlow ∧ t.draws = s.draws ∧ t.wEpoch = s.wEpoch ∧
      t.agenda = s.agenda) ∧
    (emits i = false → t.outBytes = s.outBytes ∧ t.wpos = s.wpos ∧ t.hist = s.hist ∧ t.crc = s.crc ∧
      t.isize = s.isize ∧ ∀ a, windowRead t a = windowRead s a) ∧
    (t.phase ≠ .error → t.errCode = s.errCode ∧ t.errDetail = s.errDetail ∧ t.errOrigin = s.errOrigin) ∧
    (i.format ≠ .gzFixed → t.hdrCm = s.hdrCm ∧ t.hdrFlg = s.hdrFlg ∧ t.hdrMtime = s.hdrMtime ∧ t.hdrXfl = s.hdrXfl ∧
      t.hdrOs = s.hdrOs ∧ t.warnFlg = s.warnFlg) ∧
    (i.format ≠ .gzHcrc → t.hcrcField = s.hcrcField ∧ t.hcrcCalc = s.hcrcCalc ∧ t.warnHcrc = s.warnHcrc) ∧
    (i.format ≠ .gzXlen → i.format ≠ .gzExtra → t.xlenRem = s.xlenRem) ∧
    (i.format ≠ .blkHdr → t.bfinal = s.bfinal ∧ t.btype = s.btype) ∧
    (i.format ≠ .blkHdr → i.format ≠ .clSym → t.tblFixed = s.tblFixed) ∧
    (i.format ≠ .stored → t.storedRem = s.storedRem) ∧
    (i.format ≠ .stored → i ≠ .eob → t.bitpos = s.bitpos) ∧
    (i.format ≠ .dynHdr → t.hlit = s.hlit ∧ t.hdist = s.hdist ∧ t.hclen = s.hclen) ∧
    (i.format ≠ .dynCllens → t.clLens = s.clLens) ∧
    (i.format ≠ .dynCllens → i.format ≠ .clSym → t.lens = s.lens ∧ t.idx = s.idx) ∧
    (i.format ≠ .dSym → t.copyLen = s.copyLen ∧ t.copyDist = s.copyDist) ∧
    (i.format ≠ .gzTrailer → t.trlCrc = s.trlCrc ∧ t.trlIsize = s.trlIsize)

/-- R551, R18: a step delivers at most one byte, and one that raises has delivered none. -/
def Obligations.StepDeliversAtMostOneByte : Prop :=
  ∀ s t : State, Legal s → engineStep s = .next t →
    t.outBytes = s.outBytes ∨ (t.phase ≠ .error ∧ ∃ b, t.outBytes = s.outBytes ++ [b] ∧
      (s.phase = .storedCopy ∨ s.phase = .symbol ∨ s.phase = .copy))

/-- R155, R308: no step from a legal state ends in a model fault: the reads at a byte boundary are at one, and the
only stops are the accesses of the host that R157 refuses or that are outside the register block (the refusal of the
second, and which accesses are which, are the model's, notes/assumptions/12.md). -/
def Obligations.LegalStatesNeverFault : Prop :=
  ∀ s : State, Legal s →
    (∃ t, step s = .next t) ∨
    ∃ g rest, s.agenda = .host g :: rest ∧
      ((decodeHost g = .badAccess ∧ step s = .refused .badRegisterAccess) ∨
        (decodeHost g = .elsewhere ∧ step s = .refused .notRegisterBlock))

/-- The state after reset is a legal one and its accounts hold (R750, R752). -/
def Obligations.ResetStateIsLegal : Prop :=
  Legal State.reset ∧ Accounts State.reset

/-- The invariant of the machine: the legal values of R55, R307 and what each phase says of the fields. -/
def Obligations.StepKeepsLegalStates : Prop :=
  ∀ s t : State, Legal s → step s = .next t → Legal t

/-- R607, R610, R611, R553, R558: from a legal state, a step keeps the accounts: the checksum and the counters are those
of the bytes delivered, the window holds the last 32768 of them (so R557: no copy reads a byte the session did not
write), and the header accumulator is that of the bytes pulled. -/
def Obligations.StepKeepsTheAccounts : Prop :=
  ∀ s t : State, Legal s → Accounts s → step s = .next t → Accounts t

/-- Decode is the inverse of encode: for every element the tables give a code, with every operand at every value, the
encoder's bits at a position decode to that element and leave the bits after it (R200 to R211). -/
def Obligations.DecodeInvertsEncode : Prop :=
  ∀ (x : Expect) (is : List Instr) (c : Cursor) (rest : List Bool), Admits x is →
    1 ≤ c.bitpos.toNat → c.bitpos.toNat ≤ 8 → (byteElement x = true → c.bitpos = 8) →
    (elementStart x c).bits = encode x is ++ rest →
    ∃ c', decode x c = .elem is c' ∧ c'.bits = rest ∧ 1 ≤ c'.bitpos.toNat ∧ c'.bitpos.toNat ≤ 8

/-- The other direction: what decodes to an element is that element's encoding, so each element has one spelling under
its tables. -/
def Obligations.EncodeSpellsWhatDecodeReads : Prop :=
  ∀ (x : Expect) (is : List Instr) (c c' : Cursor), soundTables x →
    1 ≤ c.bitpos.toNat → c.bitpos.toNat ≤ 8 → (byteElement x = true → c.bitpos = 8) →
    decode x c = .elem is c' → Admits x is ∧ (elementStart x c).bits = encode x is ++ c'.bits

/-- R555, R556: with the output taken, a copy of `copy_len` bytes runs in exactly that many steps, back in the symbol
loop, and byte `k` of it is the byte `copy_dist` before it, also where the copy overlaps itself. -/
def Obligations.CopyDeliversTheMatch : Prop :=
  ∀ s : State, Legal s → Accounts s → s.agenda = [] → s.outReady = true → s.phase = .copy →
    ∃ t, runSteps s.copyLen.toNat s = .next t ∧ t.phase = .symbol ∧ t.ip = s.ip ∧ t.bitpos = s.bitpos ∧
      t.outBytes.length = s.outBytes.length + s.copyLen.toNat ∧ s.outBytes <+: t.outBytes ∧
      ∀ k, k < s.copyLen.toNat →
        t.outBytes[s.outBytes.length + k]? = t.outBytes[s.outBytes.length + k - s.copyDist.toNat]? ∧
        t.outBytes[s.outBytes.length + k]? =
          s.outBytes[s.outBytes.length - s.copyDist.toNat + k % s.copyDist.toNat]?

/-- R768: with all input presented, the end declared and the output taken, a session ends in DONE or ERROR, within a
number of steps its input bounds. -/
def Obligations.SessionEndsInDoneOrError : Prop :=
  ∀ s : State, Legal s → s.agenda = [] → s.outReady = true → s.inEnd = true → restPhase s.phase = false →
    ∃ n t, n ≤ 259 * (cursorOf s).bits.length + 259 ∧ runSteps n s = .next t ∧ (t.phase = .done ∨ t.phase = .error)

/-- R99, R655: the engine's step does not depend on how many bytes the port holds beyond those it needs: bytes presented
early change nothing it does. -/
def Obligations.EarlyBytesChangeNothing : Prop :=
  ∀ (s t : State) (more : List Byte), Legal s → s.inEnd = false → heldOnInput s = false → engineStep s = .next t →
    engineStep { s with inBytes := s.inBytes ++ more } = .next { t with inBytes := s.inBytes ++ more }

end
end

