-- ==== Sys2Proof/Laws/Reading.lean ====
section
/-! SUPPORT. What each reading primitive can do (40_bit_unpacker.md): the bits it takes are the next bits of the
stream, and where it leaves the position. One lemma a primitive and an outcome. -/

namespace Sys2Proof

/-! ### Fields -/

@[simp] theorem length_fieldBits {n : Nat} (v : BitVec n) : (fieldBits v).length = n := by simp [fieldBits]

theorem getElem_fieldBits {n : Nat} (v : BitVec n) (i : Nat) (h : i < (fieldBits v).length) :
    (fieldBits v)[i] = v.getLsbD i := by simp [fieldBits]

/-- A field one bit wider on the low side: that bit comes first. -/
theorem fieldBits_concat {n : Nat} (v : BitVec n) (b : Bool) : fieldBits (v.concat b) = b :: fieldBits v := by
  refine List.ext_getElem (by simp) fun i h1 h2 => ?_
  rw [getElem_fieldBits]
  cases i with
  | zero => simp
  | succ i => simp [getElem_fieldBits]

/-- A field made of two: the low part comes first. -/
theorem fieldBits_append {n m : Nat} (hi : BitVec n) (lo : BitVec m) :
    fieldBits (hi ++ lo) = fieldBits lo ++ fieldBits hi := by
  refine List.ext_getElem (by simp; omega) fun i h1 h2 => ?_
  rw [getElem_fieldBits, BitVec.getLsbD_append, List.getElem_append]
  simp only [length_fieldBits, getElem_fieldBits]
  split <;> simp

theorem fieldBits_injective {n : Nat} {v w : BitVec n} (h : fieldBits v = fieldBits w) : v = w := by
  refine BitVec.eq_of_getLsbD_eq fun i hi => ?_
  have := congrArg (fun l => l[i]?) h
  simpa [fieldBits, hi] using this

/-- A field of `n + 1` bits is its first bit and the rest. -/
theorem exists_concat {n : Nat} (v : BitVec (n + 1)) : ∃ (w : BitVec n) (b : Bool), v = w.concat b := by
  refine ⟨BitVec.ofNat n (v.toNat / 2), v.getLsbD 0, BitVec.eq_of_toNat_eq ?_⟩
  have := v.isLt
  simp [BitVec.toNat_concat, BitVec.getLsbD, Nat.testBit_zero]
  rw [Nat.mod_eq_of_lt (by omega)]
  rcases Nat.mod_two_eq_zero_or_one v.toNat with h | h <;> simp [h] <;> omega

/-- A field of `n + m` bits is a high and a low part. -/
theorem exists_append {n m : Nat} (v : BitVec (n + m)) : ∃ (hi : BitVec n) (lo : BitVec m), v = hi ++ lo := by
  refine ⟨v.extractLsb' m n, v.extractLsb' 0 m, BitVec.eq_of_getLsbD_eq fun i hi => ?_⟩
  rw [BitVec.getLsbD_append]
  split
  · simp [*]
  · have : i - m < n := by omega
    simp [this]; congr 1; omega

theorem bitsValue_fieldBits {n : Nat} (v : BitVec n) : bitsValue (fieldBits v) = v.toNat := by
  induction n with
  | zero => simp [fieldBits, bitsValue, BitVec.eq_nil v]
  | succ n ih =>
    obtain ⟨w, b, rfl⟩ := exists_concat v
    rw [fieldBits_concat, bitsValue, ih, BitVec.toNat_concat]
    omega

/-! ### Byte lanes -/

/-- Byte lane `k` of the word of four bytes is byte `k` (R154). -/
theorem byteLane_laneWord (b0 b1 b2 b3 : Byte) :
    (List.range 4).map (Machine.byteLane (laneWord [b0, b1, b2, b3])) = [b0, b1, b2, b3] := by
  have lane : ∀ (w : Word) (b : Byte), Machine.byteLane (w <<< 8 ||| b.setWidth 32) 0 = b ∧
      ∀ k, 1 ≤ k → k < 4 → Machine.byteLane (w <<< 8 ||| b.setWidth 32) k = Machine.byteLane w (k - 1) := by
    intro w b
    refine ⟨BitVec.eq_of_getLsbD_eq fun i hi => ?_, fun k h1 h4 => BitVec.eq_of_getLsbD_eq fun i hi => ?_⟩
    · simp [Machine.byteLane, hi]; omega
    · have e : 8 * k + i - 8 = 8 * (k - 1) + i := by omega
      have h8 : ¬ 8 * k + i < 8 := by omega
      have h32 : 8 * k + i < 32 := by omega
      have hb : b.getLsbD (8 * k + i) = false := BitVec.getLsbD_of_ge _ _ (by omega)
      simp [Machine.byteLane, hi, e, h8, h32, hb]
      exact (BitVec.getLsbD_eq_getElem _).symm
  simp only [List.range, List.range.loop, List.map, laneWord, (lane _ _).1, (lane _ _).2 1 (by decide) (by decide),
    (lane _ _).2 2 (by decide) (by decide), (lane _ _).2 3 (by decide) (by decide), Nat.reduceSub]

/-! ### Positions -/

/-- A position between steps (R307). -/
def Cursor.Fine (c : Cursor) : Prop := 1 ≤ c.bitpos.toNat ∧ c.bitpos.toNat ≤ 8

/-- `c'` is the position after the bits `bs` are taken at `c`: `p` are the bytes pulled, and a byte with bits left is the
last one pulled. -/
structure Follows (bs : List Bool) (c c' : Cursor) : Prop where
  fine : c'.Fine
  bits : c.bits = bs ++ c'.bits
  pulled : ∃ p, c.rest = p ++ c'.rest ∧ 8 * p.length + c'.bitpos.toNat = c.bitpos.toNat + bs.length ∧
    (c'.bitpos = 8 ∨ (p = [] ∧ c'.bitbuf = c.bitbuf ∧ c.bitpos ≠ 8) ∨ p.getLast? = some c'.bitbuf)

theorem Follows.refl {c : Cursor} (h : c.Fine) : Follows [] c c :=
  ⟨h, rfl, [], rfl, by simp, by
    by_cases h8 : c.bitpos = 8
    · exact .inl h8
    · exact .inr (.inl ⟨rfl, rfl, h8⟩)⟩

theorem Follows.trans {bs bs' : List Bool} {c c' c'' : Cursor} (h : Follows bs c c') (h' : Follows bs' c' c'') :
    Follows (bs ++ bs') c c'' := by
  obtain ⟨p, hp, hn, hb⟩ := h.pulled
  obtain ⟨q, hq, hm, hc⟩ := h'.pulled
  refine ⟨h'.fine, by rw [h.bits, h'.bits, List.append_assoc], p ++ q, by rw [hp, hq, List.append_assoc], ?_, ?_⟩
  · simp only [List.length_append]; omega
  · rcases hc with hc | ⟨rfl, hc, h8⟩ | hc
    · exact .inl hc
    · rcases hb with hb | ⟨rfl, hb, h0⟩ | hb
      · exact absurd hb h8
      · exact .inr (.inl ⟨rfl, hc.trans hb, h0⟩)
      · exact .inr (.inr (by rw [List.append_nil, hb, hc]))
    · refine .inr (.inr ?_)
      rw [List.getLast?_append, hc]; rfl

theorem Follows.rest_length {bs : List Bool} {c c' : Cursor} (h : Follows bs c c') :
    c'.rest.length ≤ c.rest.length := by
  obtain ⟨p, hp, -, -⟩ := h.pulled
  rw [hp, List.length_append]; omega

/-- A byte is needed and none is left. -/
def Cursor.Dry (c : Cursor) : Prop := c.bitpos = 8 ∧ c.rest = []

theorem Cursor.bits_of_aligned {c : Cursor} (h : c.bitpos = 8) : c.bits = c.rest.flatMap fieldBits := by
  have : (fieldBits c.bitbuf).drop 8 = [] := List.drop_eq_nil_of_le (by simp)
  simp [Cursor.bits, h, this]

theorem Cursor.bits_of_dry {c : Cursor} (h : c.Dry) : c.bits = [] := by
  simp [Cursor.bits_of_aligned h.1, h.2]

theorem drop_fieldBits (b : Byte) {k : Nat} (h : k < 8) :
    (fieldBits b).drop k = b.getLsbD k :: (fieldBits b).drop (k + 1) := by
  rw [List.drop_eq_getElem_cons (by simpa using h), getElem_fieldBits]

/-- The position at the first bit of a freshly pulled byte, before it is read. -/
theorem bits_fresh (b : Byte) (r : List Byte) :
    Cursor.bits { bitbuf := b, bitpos := 0, rest := r } = fieldBits b ++ r.flatMap fieldBits := by
  simp [Cursor.bits]

/-! ### ReadBit and ReadBits -/

/-- ReadBit where a bit is buffered (R302). -/
theorem readBit_buffered {c : Cursor} (h : c.bitpos.toNat < 8) :
    readBit c = .ok (c.bitbuf.getLsbD c.bitpos.toNat) { c with bitpos := c.bitpos + 1 } := by
  have : c.bitpos ≠ 8 := fun e => by simp [e] at h
  simp only [readBit, refill, if_neg this, Read.bind]

/-- ReadBit where a byte is pulled (R302). -/
theorem readBit_pull {c : Cursor} {b : Byte} {r : List Byte} (h : c.bitpos = 8) (hr : c.rest = b :: r) :
    readBit c = .ok (b.getLsbD 0) { bitbuf := b, bitpos := 1, rest := r } := by
  simp [readBit, refill, h, hr, Read.bind, pullByte]

/-- ReadBit where no byte is left (R300, R302). -/
theorem readBit_dry {c : Cursor} (h : c.Dry) : readBit c = .short c := by
  simp [readBit, refill, h.1, h.2, Read.bind, pullByte]

theorem follows_bit_buffered {c : Cursor} (h : c.bitpos.toNat < 8) :
    Follows [c.bitbuf.getLsbD c.bitpos.toNat] c { c with bitpos := c.bitpos + 1 } := by
  have h1 : (c.bitpos + 1).toNat = c.bitpos.toNat + 1 := by
    rw [BitVec.toNat_add]; simp; omega
  have h8 : c.bitpos ≠ 8 := fun e => by simp [e] at h
  refine ⟨⟨?_, ?_⟩, ?_, [], rfl, ?_, .inr (.inl ⟨rfl, rfl, h8⟩)⟩
  · change 1 ≤ (c.bitpos + 1).toNat; omega
  · change (c.bitpos + 1).toNat ≤ 8; omega
  · simp only [Cursor.bits, h1]
    rw [drop_fieldBits _ h]; rfl
  · change 8 * 0 + (c.bitpos + 1).toNat = c.bitpos.toNat + 1; omega

theorem follows_bit_pull {c : Cursor} {b : Byte} {r : List Byte} (h : c.bitpos = 8) (hr : c.rest = b :: r) :
    Follows [b.getLsbD 0] c { bitbuf := b, bitpos := 1, rest := r } := by
  refine ⟨⟨by simp, by simp⟩, ?_, [b], by simp [hr], by simp [h], .inr (.inr rfl)⟩
  rw [Cursor.bits_of_aligned h, hr]
  change fieldBits b ++ r.flatMap fieldBits = b.getLsbD 0 :: ((fieldBits b).drop 1 ++ r.flatMap fieldBits)
  rw [← List.cons_append, ← drop_fieldBits b (k := 0) (by omega), List.drop_zero]

/-- What ReadBit can do at a position between steps: take the next bit, or need a byte that is not there. -/
theorem readBit_cases {c : Cursor} (h : c.Fine) :
    (∃ b c', readBit c = .ok b c' ∧ Follows [b] c c') ∨ (c.Dry ∧ readBit c = .short c) := by
  obtain ⟨h1, h8⟩ := h
  rcases Nat.lt_or_ge c.bitpos.toNat 8 with hlt | hge
  · exact .inl ⟨_, _, readBit_buffered hlt, follows_bit_buffered hlt⟩
  · have e : c.bitpos = 8 := BitVec.eq_of_toNat_eq (by simp; omega)
    cases hr : c.rest with
    | nil => exact .inr ⟨⟨e, hr⟩, readBit_dry ⟨e, hr⟩⟩
    | cons b r => exact .inl ⟨_, _, readBit_pull e hr, follows_bit_pull e hr⟩

/-- What reading can answer at a position between steps: a value with the bits it was read from (`P`), at a byte
boundary where `al` says so, or a byte that is not there. -/
inductive Says {α : Type} (al : Bool) (P : α → List Bool → Prop) (c : Cursor) : Read α → Prop
  | ok (a : α) (bs : List Bool) (c' : Cursor) (p : P a bs) (h : Follows bs c c') (hal : al = true → c'.bitpos = 8) :
    Says al P c (.ok a c')
  | short (bs : List Bool) (c' : Cursor) (h : Follows bs c c') (dry : c'.Dry) : Says al P c (.short c')

theorem Says.bind {α β : Type} {al : Bool} {P : α → List Bool → Prop} {Q : β → List Bool → Prop} {c : Cursor}
    {r : Read α} {f : α → Cursor → Read β} (hr : Says al P c r)
    (hf : ∀ a bs c', P a bs → c'.Fine → (al = true → c'.bitpos = 8) → Says al (fun b bs' => Q b (bs ++ bs')) c' (f a c')) :
    Says al Q c (r.bind f) := by
  cases hr with
  | ok a bs c' p h hal =>
    simp only [Read.bind]
    generalize hq : f a c' = q
    have := hq ▸ hf a bs c' p h.fine hal
    cases this with
    | ok b bs' c'' p' h' hal' => exact .ok b _ c'' p' (h.trans h') hal'
    | short bs' c'' h' d => exact .short _ _ (h.trans h') d
  | short bs c' h d => exact .short _ _ h d

theorem Says.done {α : Type} {al : Bool} {P : α → List Bool → Prop} {c : Cursor} {a : α} (h : c.Fine)
    (hal : al = true → c.bitpos = 8) (p : P a []) : Says al P c (.ok a c) :=
  .ok a [] c p (Follows.refl h) hal

theorem Says.mono {α : Type} {al : Bool} {P Q : α → List Bool → Prop} {c : Cursor} {r : Read α} (hr : Says al P c r)
    (h : ∀ a bs, P a bs → Q a bs) : Says al Q c r := by
  cases hr with
  | ok a bs c' p hf hal => exact .ok a bs c' (h a bs p) hf hal
  | short bs c' hf d => exact .short bs c' hf d

/-- The bits of a field are those it is read from. -/
def IsField {n : Nat} (v : BitVec n) (bs : List Bool) : Prop := bs = fieldBits v

theorem readBit_says {c : Cursor} (h : c.Fine) : Says false (fun b bs => bs = [b]) c (readBit c) := by
  rcases readBit_cases h with ⟨b, c', e, hf⟩ | ⟨hd, e⟩
  · rw [e]; exact .ok b [b] c' rfl hf (by simp)
  · rw [e]; exact .short [] _ (Follows.refl h) hd

theorem readBitsLoop_says (n : Nat) {c : Cursor} (h : c.Fine) : Says false IsField c (readBitsLoop n c) := by
  induction n generalizing c with
  | zero => exact .done h (by simp) (by simp [IsField, fieldBits])
  | succ n ih =>
    refine (readBit_says h).bind fun b bs c' hb hc' _ => (ih hc').bind fun v bs' c'' hv hc'' _ => .done hc'' (by simp) ?_
    subst hb; rw [IsField] at *; subst hv
    simp [fieldBits_concat]

/-- ReadBits(n) (R303): the value's bits are the next bits, the first as bit 0. -/
theorem readBits_says {n : Nat} (hn : n ≤ 16) {c : Cursor} (h : c.Fine) : Says false IsField c (readBits n c) := by
  rw [readBits, if_pos (by exact hn)]; exact readBitsLoop_says n h

/-! ### Whole bytes -/

theorem follows_byte {c : Cursor} {b : Byte} {r : List Byte} (h : c.bitpos = 8) (hr : c.rest = b :: r) :
    Follows (fieldBits b) c { c with rest := r } := by
  refine ⟨⟨?_, ?_⟩, ?_, [b], by simp [hr], ?_, .inl h⟩
  · change 1 ≤ c.bitpos.toNat; simp [h]
  · change c.bitpos.toNat ≤ 8; simp [h]
  · rw [Cursor.bits_of_aligned h, Cursor.bits_of_aligned (c := { c with rest := r }) h, hr]
    simp
  · change 8 * 1 + c.bitpos.toNat = c.bitpos.toNat + (fieldBits b).length
    rw [length_fieldBits]; omega

theorem fine_of_aligned {c : Cursor} (h : c.bitpos = 8) : c.Fine := by simp [Cursor.Fine, h]

/-- ReadByte (R305) at a byte boundary. -/
theorem readByte_says {c : Cursor} (h : c.bitpos = 8) : Says true IsField c (readByte c) := by
  rw [readByte, if_pos h, pullByte]
  cases hr : c.rest with
  | nil => exact .short [] _ (Follows.refl (fine_of_aligned h)) ⟨h, hr⟩
  | cons b r => exact .ok _ _ _ rfl (follows_byte h hr) fun _ => h

/-- ReadU16LE (R306): the low byte comes first. -/
theorem readU16_says {c : Cursor} (h : c.bitpos = 8) : Says true IsField c (readU16 c) := by
  refine (readByte_says h).bind fun b0 bs0 c0 h0 _ al0 => (readByte_says (al0 rfl)).bind fun b1 bs1 c1 h1 hc1 al1 =>
    .done hc1 al1 ?_
  rw [IsField] at *; subst h0 h1
  rw [fieldBits_append]; simp

/-- ReadU32LE (R306): the low half comes first. -/
theorem readU32_says {c : Cursor} (h : c.bitpos = 8) : Says true IsField c (readU32 c) := by
  refine (readU16_says h).bind fun b0 bs0 c0 h0 _ al0 => (readU16_says (al0 rfl)).bind fun b1 bs1 c1 h1 hc1 al1 =>
    .done hc1 al1 ?_
  rw [IsField] at *; subst h0 h1
  rw [fieldBits_append]; simp

/-! ### Reading what is there -/

/-- A read answers `a`, taking exactly the bits `bs`. -/
def Takes {α : Type} (r : Read α) (c : Cursor) (bs : List Bool) (a : α) (c' : Cursor) : Prop :=
  r = .ok a c' ∧ Follows bs c c'

theorem readBit_takes {c : Cursor} {b : Bool} {l : List Bool} (h : c.Fine) (hl : c.bits = b :: l) :
    ∃ c', Takes (readBit c) c [b] b c' := by
  rcases readBit_cases h with ⟨b', c', e, hf⟩ | ⟨hd, -⟩
  · have := hf.bits
    rw [hl] at this
    obtain ⟨rfl, -⟩ := List.cons.inj this
    exact ⟨c', e, hf⟩
  · rw [Cursor.bits_of_dry hd] at hl; exact absurd hl (by simp)

theorem readBitsLoop_takes {n : Nat} {c : Cursor} {v : BitVec n} {l : List Bool} (h : c.Fine)
    (hl : c.bits = fieldBits v ++ l) : ∃ c', Takes (readBitsLoop n c) c (fieldBits v) v c' := by
  induction n generalizing c with
  | zero =>
    refine ⟨c, ?_, ?_⟩
    · rw [BitVec.eq_nil v]; rfl
    · simpa [fieldBits] using Follows.refl h
  | succ n ih =>
    obtain ⟨w, b, rfl⟩ := exists_concat v
    rw [fieldBits_concat, List.cons_append] at hl
    obtain ⟨c', e, hf⟩ := readBit_takes h hl
    have hb := hf.bits
    rw [hl] at hb
    obtain ⟨c'', e', hf'⟩ := ih hf.fine (List.cons.inj hb).2.symm
    refine ⟨c'', ?_, ?_⟩
    · simp only [readBitsLoop, e, Read.bind, e']
    · rw [fieldBits_concat]; exact hf.trans hf'

/-- ReadBits(n) (R303) where the field's bits come next. -/
theorem readBits_takes {n : Nat} (hn : n ≤ 16) {c : Cursor} {v : BitVec n} {l : List Bool} (h : c.Fine)
    (hl : c.bits = fieldBits v ++ l) : ∃ c', Takes (readBits n c) c (fieldBits v) v c' := by
  rw [readBits, if_pos (by exact hn)]; exact readBitsLoop_takes h hl

/-- ReadByte (R305) where a byte's bits come next. -/
theorem readByte_takes {c : Cursor} {b : Byte} {l : List Bool} (h : c.bitpos = 8) (hl : c.bits = fieldBits b ++ l) :
    ∃ c', Takes (readByte c) c (fieldBits b) b c' ∧ c'.bitpos = 8 := by
  cases hr : c.rest with
  | nil =>
    rw [Cursor.bits_of_dry ⟨h, hr⟩] at hl
    have := congrArg List.length hl
    simp at this; omega
  | cons b' r =>
    have hb : b' = b := by
      rw [Cursor.bits_of_aligned h, hr, List.flatMap_cons] at hl
      exact fieldBits_injective (List.append_inj_left hl (by simp))
    subst hb
    exact ⟨{ c with rest := r }, ⟨by simp only [readByte, if_pos h, pullByte, hr], follows_byte h hr⟩, h⟩

/-- ReadU16LE (R306) where the field's bits come next. -/
theorem readU16_takes {c : Cursor} {v : BitVec 16} {l : List Bool} (h : c.bitpos = 8)
    (hl : c.bits = fieldBits v ++ l) : ∃ c', Takes (readU16 c) c (fieldBits v) v c' ∧ c'.bitpos = 8 := by
  obtain ⟨hi, lo, rfl⟩ : ∃ hi lo : Byte, v = hi ++ lo := exists_append (n := 8) (m := 8) v
  rw [fieldBits_append, List.append_assoc] at hl
  obtain ⟨c0, ⟨e0, f0⟩, a0⟩ := readByte_takes h hl
  have hb := f0.bits
  rw [hl, List.append_cancel_left_eq] at hb
  obtain ⟨c1, ⟨e1, f1⟩, a1⟩ := readByte_takes a0 hb.symm
  refine ⟨c1, ⟨?_, ?_⟩, a1⟩
  · simp only [readU16, e0, Read.bind, e1]
  · rw [fieldBits_append]; exact f0.trans f1

/-- ReadU32LE (R306) where the field's bits come next. -/
theorem readU32_takes {c : Cursor} {v : BitVec 32} {l : List Bool} (h : c.bitpos = 8)
    (hl : c.bits = fieldBits v ++ l) : ∃ c', Takes (readU32 c) c (fieldBits v) v c' ∧ c'.bitpos = 8 := by
  obtain ⟨hi, lo, rfl⟩ : ∃ hi lo : BitVec 16, v = hi ++ lo := exists_append (n := 16) (m := 16) v
  rw [fieldBits_append, List.append_assoc] at hl
  obtain ⟨c0, ⟨e0, f0⟩, a0⟩ := readU16_takes h hl
  have hb := f0.bits
  rw [hl, List.append_cancel_left_eq] at hb
  obtain ⟨c1, ⟨e1, f1⟩, a1⟩ := readU16_takes a0 hb.symm
  refine ⟨c1, ⟨?_, ?_⟩, a1⟩
  · simp only [readU32, e0, Read.bind, e1]
  · rw [fieldBits_append]; exact f0.trans f1

/-! ### Decode -/

theorem huffLoop_says (syms counts : List Nat) (code first index : Nat) {c : Cursor} (h : c.Fine) :
    Says false (fun _ bs => bs.length ≤ counts.length ∧ (counts ≠ [] → 1 ≤ bs.length)) c
      (huffLoop syms counts code first index c) := by
  induction counts generalizing code first index c with
  | nil => exact .done h (by simp) (by simp)
  | cons n rest ih =>
    refine (readBit_says h).bind fun b bs c' hb hc' _ => ?_
    subst hb
    dsimp only
    split
    · exact .done hc' (by simp) (by simp)
    · exact (ih _ _ _ hc').mono fun a bs' hbs => by simp; omega

/-- Decode (R404): between 1 and `maxbits` bits are taken, or the input runs out. -/
theorem huffDecode_says (lens : List Nat) {maxbits : Nat} (hm : 1 ≤ maxbits) {c : Cursor} (h : c.Fine) :
    Says false (fun _ bs => 1 ≤ bs.length ∧ bs.length ≤ maxbits) c (huffDecode (buildTable lens maxbits) c) := by
  have hl : (buildTable lens maxbits).counts.length = maxbits := by simp [buildTable]
  refine (huffLoop_says _ _ 0 0 0 h).mono fun a bs hbs => ?_
  rw [hl] at hbs
  exact ⟨hbs.2 fun e => by rw [e] at hl; simp at hl; omega, hbs.1⟩

end Sys2Proof
end

