-- ==== Sys2Proof/Laws/Elements.lean ====
section
/-! SUPPORT. What decoding an element can answer, element by element: the shape of the instructions, the bits they took,
the errors and the fields captured. One lemma a format, and `decode_says` for all of them. -/

namespace Sys2Proof

/-- The instructions of an element of each kind, whatever codes they have. -/
def Shape : Expect → List Instr → Prop
  | .gzFixed, is => ∃ flg mtime xfl os, is = [.gzFixed flg mtime xfl os]
  | .gzXlen, is => ∃ v, is = [.gzXlen v]
  | .gzExtra, is => ∃ b, is = [.gzExtra b]
  | .gzName, is => ∃ b, is = [.gzName b]
  | .gzComment, is => ∃ b, is = [.gzComment b]
  | .gzHcrc, is => ∃ h, is = [.gzHcrc h]
  | .blkHdr, is => ∃ f, is = [.blkStored f] ∨ is = [.blkFixed f] ∨ is = [.blkDynamic f] ∨ is = [.blkReserved f]
  | .storedLen, is => ∃ len nlen, is = [.storedLen len nlen]
  | .storedCopy, is => ∃ b, is = [.storedCopy b]
  | .dynHdr, is => ∃ hlit hdist hclen, is = [.dynHdr hlit hdist hclen]
  | .dynCllens n, is => ∃ cll, is = [.dynCllens cll] ∧ cll.length = n
  | .clSym _, is => ∃ i, is = [i] ∧ i.format = .clSym
  | .llSym _ _, is => (∃ i, is = [i] ∧ i.format = .llSym ∧ matchLengthOf i = none) ∨
      ∃ i j, is = [i, j] ∧ i.format = .llSym ∧ matchLengthOf i ≠ none ∧ j.format = .dSym
  | .dSym _, is => ∃ j, is = [j] ∧ j.format = .dSym
  | .trailer, is => ∃ crc isize, is = [.gzTrailer crc isize]

/-- The elements without a Huffman code: their bits do not depend on a table. -/
def plain : Expect → Bool
  | .clSym _ | .llSym _ _ | .dSym _ => false
  | _ => true

/-- The elements that end at a byte boundary: those of whole bytes. -/
def endsAligned : Expect → Bool
  | .storedLen | .trailer => true
  | x => byteElement x

/-- The errors a fetch of each kind of element can raise by itself, with the fields it captured before (R230, R707). -/
def MayRaise : Expect → Err → Capture → Prop
  | .gzFixed, e, k => (e = .invalidMagic ∧ k = .nothing) ∨ (e = .unsupportedMethod ∧ ∃ cm, k = .hdrCm cm)
  | .clSym _, e, k => e = .corruptBlock .clNocode ∧ k = .nothing
  | .llSym _ _, e, k => (e = .corruptBlock .llNocode ∨ e = .corruptBlock .dNocode) ∧ k = .nothing
  | .dSym _, e, k => e = .corruptBlock .dNocode ∧ k = .nothing
  | _, _, _ => False

/-- The fields a fetch may have captured when the input runs out (R705). -/
def MayCapture : Expect → Capture → Prop
  | .gzFixed, k => k = .nothing ∨ (∃ cm, k = .hdrCm cm) ∨ (∃ f, k = .hdrFlg f) ∨ (∃ f m, k = .hdrMtime f m) ∨
      ∃ f m x, k = .hdrXfl f m x
  | .dynHdr, k => k = .nothing ∨ (∃ h, k = .hlit h) ∨ ∃ h d, k = .hdist h d
  | .dynCllens _, k => ∃ cll, k = .clLens cll
  | .trailer, k => k = .nothing ∨ ∃ crc, k = .trlCrc crc
  | _, k => k = .nothing

/-- What decoding can answer: no read without meaning is among it. -/
inductive DecodedSays (al : Bool) (P : List Instr → List Bool → Prop) (E : Err → Capture → Prop)
    (K : Capture → Prop) (c : Cursor) : Decoded → Prop
  | elem (is : List Instr) (bs : List Bool) (c' : Cursor) (p : P is bs) (h : Follows bs c c')
      (hal : al = true → c'.bitpos = 8) : DecodedSays al P E K c (.elem is c')
  | illegal (e : Err) (k : Capture) (bs : List Bool) (c' : Cursor) (p : E e k) (h : Follows bs c c') :
      DecodedSays al P E K c (.illegal e k c')
  | short (k : Capture) (bs : List Bool) (c' : Cursor) (p : K k) (h : Follows bs c c') (dry : c'.Dry) :
      DecodedSays al P E K c (.short k c')

variable {al : Bool} {P : List Instr → List Bool → Prop} {E : Err → Capture → Prop} {K : Capture → Prop} {c : Cursor}

theorem DecodedSays.cons {c' : Cursor} {bs : List Bool} {d : Decoded} (h : Follows bs c c')
    (hd : DecodedSays al (fun is bs' => P is (bs ++ bs')) E K c' d) : DecodedSays al P E K c d := by
  cases hd with
  | elem is bs' c'' p h' hal => exact .elem is _ c'' p (h.trans h') hal
  | illegal e k bs' c'' p h' => exact .illegal e k _ c'' p (h.trans h')
  | short k bs' c'' p h' d => exact .short k _ c'' p (h.trans h') d

theorem DecodedSays.andThen {α : Type} {al' : Bool} {Q : α → List Bool → Prop} {r : Read α} {k : Capture}
    {f : α → Cursor → Decoded} (hr : Says al' Q c r) (hk : K k)
    (hf : ∀ a bs c', Q a bs → c'.Fine → (al' = true → c'.bitpos = 8) →
      DecodedSays al (fun is bs' => P is (bs ++ bs')) E K c' (f a c')) :
    DecodedSays al P E K c (r.andThen k f) := by
  cases hr with
  | ok a bs c' q h hal => exact .cons h (hf a bs c' q h.fine hal)
  | short bs c' h d => exact .short k bs c' hk h d

theorem DecodedSays.done {is : List Instr} (h : c.Fine) (hal : al = true → c.bitpos = 8) (p : P is []) :
    DecodedSays al P E K c (.elem is c) := .elem is [] c p (Follows.refl h) hal

theorem DecodedSays.reject {e : Err} {k : Capture} (h : c.Fine) (p : E e k) :
    DecodedSays al P E K c (.illegal e k c) := .illegal e k [] c p (Follows.refl h)

theorem DecodedSays.mono {Q : List Instr → List Bool → Prop} {d : Decoded} (hd : DecodedSays al P E K c d)
    (h : ∀ is bs, P is bs → Q is bs) : DecodedSays al Q E K c d := by
  cases hd with
  | elem is bs' c'' p h' hal => exact .elem is _ c'' (h _ _ p) h' hal
  | illegal e k bs' c'' p h' => exact .illegal e k _ c'' p h'
  | short k bs' c'' p h' d => exact .short k _ c'' p h' d

/-- The bits of an element without a Huffman code are its encoding. -/
def Spelled (x : Expect) (is : List Instr) (bs : List Bool) : Prop :=
  Shape x is ∧ 1 ≤ bs.length ∧ (plain x = true → bs = encode x is)

theorem encode_single (x : Expect) (i : Instr) : encode x [i] = encodeInstr x i := by simp [encode]

theorem encode_blockInstr (v : BitVec 3) : encode .blkHdr [blockInstr v] = fieldBits v := by
  revert v; decide

theorem shape_blockInstr (v : BitVec 3) : Shape .blkHdr [blockInstr v] := by
  unfold blockInstr
  split <;> exact ⟨v.getLsbD 0, by simp⟩

theorem decodeGzFixed_says (h : c.bitpos = 8) :
    DecodedSays true (Spelled .gzFixed) (MayRaise .gzFixed) (MayCapture .gzFixed) c (decodeGzFixed c) := by
  unfold decodeGzFixed
  refine .andThen (readByte_says h) (by simp [MayCapture]) fun id1 bs1 c1 h1 _ a1 => ?_
  refine .andThen (readByte_says (a1 rfl)) (by simp [MayCapture]) fun id2 bs2 c2 h2 f2 a2 => ?_
  split
  · exact .reject f2 (by simp [MayRaise])
  rename_i hm
  obtain ⟨rfl, rfl⟩ : id1 = 0x1F ∧ id2 = 0x8B := by simpa using hm
  refine .andThen (readByte_says (a2 rfl)) (by simp [MayCapture]) fun cm bs3 c3 h3 f3 a3 => ?_
  split
  · exact .reject f3 (by simp [MayRaise])
  rename_i hcm
  obtain rfl : cm = 8 := by simpa using hcm
  refine .andThen (readByte_says (a3 rfl)) (by simp [MayCapture]) fun flg bs4 c4 h4 f4 a4 => ?_
  refine .andThen (readU32_says (a4 rfl)) (by simp [MayCapture]) fun mt bs5 c5 h5 f5 a5 => ?_
  refine .andThen (readByte_says (a5 rfl)) (by simp [MayCapture]) fun xfl bs6 c6 h6 f6 a6 => ?_
  refine .andThen (readByte_says (a6 rfl)) (by simp [MayCapture]) fun os bs7 c7 h7 f7 a7 => ?_
  refine .done f7 a7 ⟨⟨_, _, _, _, rfl⟩, ?_, fun _ => ?_⟩
  · rw [IsField] at *; subst h1; simp; omega
  · rw [IsField] at *; subst h1 h2 h3 h4 h5 h6 h7
    rw [encode_single]
    have : fieldBits (BitVec.ofNat 24 0x088B1F) = fieldBits (0x1F : Byte) ++ (fieldBits (0x8B : Byte) ++ fieldBits (8 : Byte)) := by
      decide
    simp only [encodeInstr, Instr.format, Instr.selector, Instr.operandBits, this, List.append_assoc, List.append_nil]

theorem decodeStoredLen_says :
    DecodedSays true (Spelled .storedLen) (MayRaise .storedLen) (MayCapture .storedLen) (alignToByte c)
      (decodeStoredLen c) := by
  unfold decodeStoredLen
  refine .andThen (readU16_says rfl) rfl fun len bs1 c1 h1 _ a1 => ?_
  refine .andThen (readU16_says (a1 rfl)) rfl fun nlen bs2 c2 h2 f2 a2 => ?_
  refine .done f2 a2 ⟨⟨_, _, rfl⟩, ?_, fun _ => ?_⟩
  · rw [IsField] at *; subst h1; simp; omega
  · rw [IsField] at *; subst h1 h2
    rw [encode_single]
    simp only [encodeInstr, Instr.format, Instr.operandBits, List.append_nil, List.nil_append]

theorem decodeTrailer_says :
    DecodedSays true (Spelled .trailer) (MayRaise .trailer) (MayCapture .trailer) (alignToByte c) (decodeTrailer c) := by
  unfold decodeTrailer
  refine .andThen (readU32_says rfl) (by simp [MayCapture]) fun len bs1 c1 h1 _ a1 => ?_
  refine .andThen (readU32_says (a1 rfl)) (by simp [MayCapture]) fun nlen bs2 c2 h2 f2 a2 => ?_
  refine .done f2 a2 ⟨⟨_, _, rfl⟩, ?_, fun _ => ?_⟩
  · rw [IsField] at *; subst h1; simp; omega
  · rw [IsField] at *; subst h1 h2
    rw [encode_single]
    simp only [encodeInstr, Instr.format, Instr.operandBits, List.append_nil, List.nil_append]

theorem decodeDynHdr_says (h : c.Fine) :
    DecodedSays false (Spelled .dynHdr) (MayRaise .dynHdr) (MayCapture .dynHdr) c (decodeDynHdr c) := by
  unfold decodeDynHdr
  refine .andThen (readBits_says (by omega) h) (by simp [MayCapture]) fun hl bs1 c1 h1 f1 _ => ?_
  refine .andThen (readBits_says (by omega) f1) (by simp [MayCapture]) fun hd bs2 c2 h2 f2 _ => ?_
  refine .andThen (readBits_says (by omega) f2) (by simp [MayCapture]) fun hc bs3 c3 h3 f3 _ => ?_
  refine .done f3 (by simp) ⟨⟨_, _, _, rfl⟩, ?_, fun _ => ?_⟩
  · rw [IsField] at *; subst h1; simp; omega
  · rw [IsField] at *; subst h1 h2 h3
    rw [encode_single]
    simp only [encodeInstr, Instr.format, Instr.operandBits, List.append_nil, List.nil_append, List.append_assoc]

theorem decodeCllens_says (n : Nat) (got : List (BitVec 3)) (h : c.Fine) :
    DecodedSays false (fun is bs => ∃ more, is = [.dynCllens (got ++ more)] ∧ more.length = n ∧
      bs = more.flatMap fieldBits) (fun _ _ => False) (fun k => ∃ cll, k = .clLens cll) c (decodeCllens n got c) := by
  induction n generalizing got c with
  | zero => exact .done h (by simp) ⟨[], by simp⟩
  | succ n ih =>
    refine .andThen (readBits_says (by omega) h) ⟨got, rfl⟩ fun l bs1 c1 h1 f1 _ => (ih (got ++ [l]) f1).mono ?_
    rintro is bs ⟨more, rfl, hn, rfl⟩
    rw [IsField] at h1; subst h1
    exact ⟨l :: more, by simp, by simp [hn], by simp⟩

theorem format_clInstrs : ∀ f ∈ clInstrs, ∀ x, (f x).format = .clSym := by simp [clInstrs, Instr.format]

theorem format_distInstrs : ∀ f ∈ distInstrs, ∀ x, (f x).format = .dSym := by simp [distInstrs, Instr.format]

theorem format_lengthInstrs : ∀ f ∈ lengthInstrs, ∀ x, (f x).format = .llSym ∧ matchLengthOf (f x) ≠ none := by
  simp [lengthInstrs, Instr.format, matchLengthOf, Instr.selector, lengthBase]

theorem clExtra_le (s : Nat) : clExtra s ≤ 16 := by unfold clExtra; split_ifs <;> omega

theorem lengthExtra_le (s : Nat) : lengthExtra.getD s 0 ≤ 16 := by
  rcases Nat.lt_or_ge s 29 with h | h
  · revert s; decide
  · rw [List.getD_eq_default _ _ (by simpa [lengthExtra] using h)]; omega

theorem distExtra_le (s : Nat) : distExtra.getD s 0 ≤ 16 := by
  rcases Nat.lt_or_ge s 30 with h | h
  · revert s; decide
  · rw [List.getD_eq_default _ _ (by simpa [distExtra] using h)]; omega

theorem decodeClSym_says (cl : List Nat) (h : c.Fine) :
    DecodedSays false (Spelled (.clSym cl)) (MayRaise (.clSym cl)) (MayCapture (.clSym cl)) c (decodeClSym cl c) := by
  unfold decodeClSym
  refine .andThen (huffDecode_says cl (by decide) h) rfl fun sym bs1 c1 h1 f1 _ => ?_
  split
  · exact .reject f1 ⟨rfl, rfl⟩
  rename_i n f hsym
  obtain ⟨s, -, hs⟩ := Option.bind_eq_some_iff.mp hsym
  obtain ⟨g, hg, he⟩ := Option.map_eq_some_iff.mp hs
  obtain ⟨rfl, rfl⟩ := Prod.mk.inj he
  refine .andThen (readBits_says (clExtra_le s) f1) rfl fun x bs2 c2 h2 f2 _ => ?_
  refine .done f2 (by simp) ⟨⟨_, rfl, format_clInstrs _ (List.mem_of_getElem? hg) _⟩, ?_, by simp [plain]⟩
  simp; omega

theorem decodeDSym_says (before : List Instr) (d : List Nat) (h : c.Fine) :
    DecodedSays false (fun is bs => ∃ j, is = before ++ [j] ∧ j.format = .dSym ∧ 1 ≤ bs.length)
      (fun e k => e = .corruptBlock .dNocode ∧ k = .nothing) (fun k => k = .nothing) c (decodeDSym before d c) := by
  unfold decodeDSym
  refine .andThen (huffDecode_says d (by decide) h) rfl fun sym bs1 c1 h1 f1 _ => ?_
  split
  · exact .reject f1 ⟨rfl, rfl⟩
  rename_i n f hsym
  obtain ⟨s, -, hs⟩ := Option.bind_eq_some_iff.mp hsym
  obtain ⟨g, hg, he⟩ := Option.map_eq_some_iff.mp hs
  obtain ⟨rfl, rfl⟩ := Prod.mk.inj he
  refine .andThen (readBits_says (distExtra_le s) f1) rfl fun x bs2 c2 h2 f2 _ => ?_
  refine .done f2 (by simp) ⟨_, rfl, format_distInstrs _ (List.mem_of_getElem? hg) _, ?_⟩
  simp; omega

theorem DecodedSays.weaken {E' : Err → Capture → Prop} {K' : Capture → Prop} {d : Decoded}
    (hd : DecodedSays al P E K c d) (hE : ∀ e k, E e k → E' e k) (hK : ∀ k, K k → K' k) :
    DecodedSays al P E' K' c d := by
  cases hd with
  | elem is bs' c'' p h' hal => exact .elem is _ c'' p h' hal
  | illegal e k bs' c'' p h' => exact .illegal e k _ c'' (hE _ _ p) h'
  | short k bs' c'' p h' d => exact .short k _ c'' (hK _ p) h' d

theorem decodeLlSym_says (ll d : List Nat) (h : c.Fine) :
    DecodedSays false (Spelled (.llSym ll d)) (MayRaise (.llSym ll d)) (MayCapture (.llSym ll d)) c
      (decodeLlSym ll d c) := by
  unfold decodeLlSym
  refine .andThen (huffDecode_says ll (by decide) h) rfl fun sym bs1 c1 h1 f1 _ => ?_
  cases sym with
  | none => exact .reject f1 ⟨.inl rfl, rfl⟩
  | some s =>
    have one : ∀ i : Instr, i.format = .llSym → matchLengthOf i = none →
        DecodedSays false (fun is bs' => Spelled (.llSym ll d) is (bs1 ++ bs')) (MayRaise (.llSym ll d))
          (MayCapture (.llSym ll d)) c1 (.elem [i] c1) := fun i hi hm =>
      .done f1 (by simp) ⟨.inl ⟨i, rfl, hi, hm⟩, by simp; omega, by simp [plain]⟩
    dsimp only
    split_ifs
    · refine one _ rfl ?_
      rename_i hs
      have : ¬ 257 ≤ (BitVec.ofNat 8 s).toNat := by have := (BitVec.ofNat 8 s).isLt; omega
      simp [matchLengthOf, Instr.selector]; omega
    · exact one _ rfl rfl
    · exact one _ rfl rfl
    · exact one _ rfl rfl
    · split
      · exact .reject f1 ⟨.inl rfl, rfl⟩
      rename_i f hf
      refine .andThen (readBits_says (lengthExtra_le _) f1) rfl fun x bs2 c2 h2 f2 _ => ?_
      obtain ⟨g1, g2⟩ := format_lengthInstrs _ (List.mem_of_getElem? hf) x.toNat
      refine ((decodeDSym_says _ d f2).mono ?_).weaken (fun e k he => ⟨.inr he.1, he.2⟩) fun k hk => hk
      rintro is bs ⟨j, rfl, hj, hn⟩
      exact ⟨.inr ⟨_, j, rfl, g1, g2, hj⟩, by simp; omega, by simp [plain]⟩

/-- What decoding can answer, for every kind of element. -/
theorem decode_says (x : Expect) (h : (elementStart x c).Fine) (hb : byteElement x = true → c.bitpos = 8)
    (hn : x ≠ .dynCllens 0) :
    DecodedSays (endsAligned x) (Spelled x) (MayRaise x) (MayCapture x) (elementStart x c)
      (decode x c) := by
  have byte : ∀ (x : Expect) (mk : Byte → Instr), byteElement x = true → c.bitpos = 8 → (∀ b, Shape x [mk b]) →
      (∀ b, encode x [mk b] = fieldBits b) → MayCapture x .nothing →
      DecodedSays true (Spelled x) (MayRaise x) (MayCapture x) c
        ((readByte c).andThen .nothing fun b c => .elem [mk b] c) := fun x mk _ hc hs he hk =>
    .andThen (readByte_says hc) hk fun b bs c' hb f a => .done f a
      ⟨hs b, by rw [hb]; simp, fun _ => by rw [hb, he]; simp⟩
  have word : ∀ (x : Expect) (mk : BitVec 16 → Instr), byteElement x = true → c.bitpos = 8 → (∀ b, Shape x [mk b]) →
      (∀ b, encode x [mk b] = fieldBits b) → MayCapture x .nothing →
      DecodedSays true (Spelled x) (MayRaise x) (MayCapture x) c
        ((readU16 c).andThen .nothing fun b c => .elem [mk b] c) := fun x mk _ hc hs he hk =>
    .andThen (readU16_says hc) hk fun b bs c' hb f a => .done f a
      ⟨hs b, by rw [hb]; simp, fun _ => by rw [hb, he]; simp⟩
  cases x with
  | gzFixed => exact decodeGzFixed_says (hb rfl)
  | gzXlen =>
    exact word _ .gzXlen rfl (hb rfl) (fun v => ⟨v, rfl⟩)
      (fun v => by simp [encode, encodeInstr, Instr.format, Instr.operandBits]) rfl
  | gzExtra =>
    exact byte _ .gzExtra rfl (hb rfl) (fun v => ⟨v, rfl⟩)
      (fun v => by simp [encode, encodeInstr, Instr.format, Instr.operandBits]) rfl
  | gzName =>
    exact byte _ .gzName rfl (hb rfl) (fun v => ⟨v, rfl⟩)
      (fun v => by simp [encode, encodeInstr, Instr.format, Instr.operandBits]) rfl
  | gzComment =>
    exact byte _ .gzComment rfl (hb rfl) (fun v => ⟨v, rfl⟩)
      (fun v => by simp [encode, encodeInstr, Instr.format, Instr.operandBits]) rfl
  | gzHcrc =>
    exact word _ .gzHcrc rfl (hb rfl) (fun v => ⟨v, rfl⟩)
      (fun v => by simp [encode, encodeInstr, Instr.format, Instr.operandBits]) rfl
  | blkHdr =>
    exact .andThen (readBits_says (by omega) h) rfl fun v bs c' hv f _ => .done f (by simp [endsAligned, byteElement])
      ⟨shape_blockInstr v, by rw [hv]; simp, fun _ => by rw [hv, encode_blockInstr]; simp⟩
  | storedLen => exact decodeStoredLen_says
  | storedCopy =>
    exact byte _ .storedCopy rfl (hb rfl) (fun v => ⟨v, rfl⟩)
      (fun v => by simp [encode, encodeInstr, Instr.format, Instr.operandBits]) rfl
  | dynHdr => exact decodeDynHdr_says h
  | dynCllens n =>
    refine ((decodeCllens_says n [] h).mono ?_).weaken (fun e k he => he) fun k hk => hk
    rintro is bs ⟨more, rfl, hm, rfl⟩
    refine ⟨⟨more, by simp, hm⟩, ?_, fun _ => ?_⟩
    · rcases more with _ | ⟨a, more⟩
      · simp at hm; subst hm; exact absurd rfl hn
      · simp; omega
    · simp [encode, encodeInstr, Instr.format, Instr.operandBits]
  | clSym cl => exact decodeClSym_says cl h
  | llSym ll d => exact decodeLlSym_says ll d h
  | dSym d =>
    refine ((decodeDSym_says [] d h).mono ?_).weaken (fun e k he => he) fun k hk => hk
    rintro is bs ⟨j, rfl, hj, hl⟩
    exact ⟨⟨j, rfl, hj⟩, hl, by simp [plain]⟩
  | trailer => exact decodeTrailer_says

end Sys2Proof
end

