-- ==== Sys2Proof/Laws/State.lean ====
section
/-! SUPPORT. What each named update of the state does to each field: one lemma a field and an update, so that no later
proof unfolds an update. -/

namespace Sys2Proof.Machine

@[simp] theorem advanceTo_phase (c : Cursor) (s : State) : (advanceTo c s).phase = s.phase := rfl
@[simp] theorem advanceTo_ctrlRaw (c : Cursor) (s : State) : (advanceTo c s).ctrlRaw = s.ctrlRaw := rfl
@[simp] theorem advanceTo_ctrlIrqEn (c : Cursor) (s : State) : (advanceTo c s).ctrlIrqEn = s.ctrlIrqEn := rfl
@[simp] theorem advanceTo_modeRaw (c : Cursor) (s : State) : (advanceTo c s).modeRaw = s.modeRaw := rfl
@[simp] theorem advanceTo_ip (c : Cursor) (s : State) : (advanceTo c s).ip = s.ip + (pulledBytes s c).length := rfl
@[simp] theorem advanceTo_bitbuf (c : Cursor) (s : State) : (advanceTo c s).bitbuf = c.bitbuf := rfl
@[simp] theorem advanceTo_bitpos (c : Cursor) (s : State) : (advanceTo c s).bitpos = c.bitpos := rfl
@[simp] theorem advanceTo_bfinal (c : Cursor) (s : State) : (advanceTo c s).bfinal = s.bfinal := rfl
@[simp] theorem advanceTo_btype (c : Cursor) (s : State) : (advanceTo c s).btype = s.btype := rfl
@[simp] theorem advanceTo_tblFixed (c : Cursor) (s : State) : (advanceTo c s).tblFixed = s.tblFixed := rfl
@[simp] theorem advanceTo_storedRem (c : Cursor) (s : State) : (advanceTo c s).storedRem = s.storedRem := rfl
@[simp] theorem advanceTo_xlenRem (c : Cursor) (s : State) : (advanceTo c s).xlenRem = s.xlenRem := rfl
@[simp] theorem advanceTo_hlit (c : Cursor) (s : State) : (advanceTo c s).hlit = s.hlit := rfl
@[simp] theorem advanceTo_hdist (c : Cursor) (s : State) : (advanceTo c s).hdist = s.hdist := rfl
@[simp] theorem advanceTo_hclen (c : Cursor) (s : State) : (advanceTo c s).hclen = s.hclen := rfl
@[simp] theorem advanceTo_clLens (c : Cursor) (s : State) : (advanceTo c s).clLens = s.clLens := rfl
@[simp] theorem advanceTo_lens (c : Cursor) (s : State) : (advanceTo c s).lens = s.lens := rfl
@[simp] theorem advanceTo_idx (c : Cursor) (s : State) : (advanceTo c s).idx = s.idx := rfl
@[simp] theorem advanceTo_copyLen (c : Cursor) (s : State) : (advanceTo c s).copyLen = s.copyLen := rfl
@[simp] theorem advanceTo_copyDist (c : Cursor) (s : State) : (advanceTo c s).copyDist = s.copyDist := rfl
@[simp] theorem advanceTo_window (c : Cursor) (s : State) : (advanceTo c s).window = s.window := rfl
@[simp] theorem advanceTo_wpos (c : Cursor) (s : State) : (advanceTo c s).wpos = s.wpos := rfl
@[simp] theorem advanceTo_hist (c : Cursor) (s : State) : (advanceTo c s).hist = s.hist := rfl
@[simp] theorem advanceTo_crc (c : Cursor) (s : State) : (advanceTo c s).crc = s.crc := rfl
@[simp] theorem advanceTo_isize (c : Cursor) (s : State) : (advanceTo c s).isize = s.isize := rfl
@[simp] theorem advanceTo_hcrcAcc (c : Cursor) (s : State) : (advanceTo c s).hcrcAcc = if headerCrcPhase s.phase then (pulledBytes s c).foldl crcStep s.hcrcAcc else s.hcrcAcc := rfl
@[simp] theorem advanceTo_hdrCm (c : Cursor) (s : State) : (advanceTo c s).hdrCm = s.hdrCm := rfl
@[simp] theorem advanceTo_hdrFlg (c : Cursor) (s : State) : (advanceTo c s).hdrFlg = s.hdrFlg := rfl
@[simp] theorem advanceTo_hdrMtime (c : Cursor) (s : State) : (advanceTo c s).hdrMtime = s.hdrMtime := rfl
@[simp] theorem advanceTo_hdrXfl (c : Cursor) (s : State) : (advanceTo c s).hdrXfl = s.hdrXfl := rfl
@[simp] theorem advanceTo_hdrOs (c : Cursor) (s : State) : (advanceTo c s).hdrOs = s.hdrOs := rfl
@[simp] theorem advanceTo_hcrcField (c : Cursor) (s : State) : (advanceTo c s).hcrcField = s.hcrcField := rfl
@[simp] theorem advanceTo_hcrcCalc (c : Cursor) (s : State) : (advanceTo c s).hcrcCalc = s.hcrcCalc := rfl
@[simp] theorem advanceTo_trlCrc (c : Cursor) (s : State) : (advanceTo c s).trlCrc = s.trlCrc := rfl
@[simp] theorem advanceTo_trlIsize (c : Cursor) (s : State) : (advanceTo c s).trlIsize = s.trlIsize := rfl
@[simp] theorem advanceTo_errCode (c : Cursor) (s : State) : (advanceTo c s).errCode = s.errCode := rfl
@[simp] theorem advanceTo_errDetail (c : Cursor) (s : State) : (advanceTo c s).errDetail = s.errDetail := rfl
@[simp] theorem advanceTo_errOrigin (c : Cursor) (s : State) : (advanceTo c s).errOrigin = s.errOrigin := rfl
@[simp] theorem advanceTo_warnHcrc (c : Cursor) (s : State) : (advanceTo c s).warnHcrc = s.warnHcrc := rfl
@[simp] theorem advanceTo_warnFlg (c : Cursor) (s : State) : (advanceTo c s).warnFlg = s.warnFlg := rfl
@[simp] theorem advanceTo_inBytes (c : Cursor) (s : State) : (advanceTo c s).inBytes = s.inBytes := rfl
@[simp] theorem advanceTo_inEnd (c : Cursor) (s : State) : (advanceTo c s).inEnd = s.inEnd := rfl
@[simp] theorem advanceTo_outBytes (c : Cursor) (s : State) : (advanceTo c s).outBytes = s.outBytes := rfl
@[simp] theorem advanceTo_outReady (c : Cursor) (s : State) : (advanceTo c s).outReady = s.outReady := rfl
@[simp] theorem advanceTo_regRdata (c : Cursor) (s : State) : (advanceTo c s).regRdata = s.regRdata := rfl
@[simp] theorem advanceTo_matchLen (c : Cursor) (s : State) : (advanceTo c s).matchLen = s.matchLen := rfl
@[simp] theorem advanceTo_inFlow (c : Cursor) (s : State) : (advanceTo c s).inFlow = s.inFlow := rfl
@[simp] theorem advanceTo_draws (c : Cursor) (s : State) : (advanceTo c s).draws = s.draws := rfl
@[simp] theorem advanceTo_wEpoch (c : Cursor) (s : State) : (advanceTo c s).wEpoch = s.wEpoch := rfl
@[simp] theorem advanceTo_agenda (c : Cursor) (s : State) : (advanceTo c s).agenda = s.agenda := rfl

@[simp] theorem emit_phase (b : Byte) (s : State) : (emit b s).phase = s.phase := rfl
@[simp] theorem emit_ctrlRaw (b : Byte) (s : State) : (emit b s).ctrlRaw = s.ctrlRaw := rfl
@[simp] theorem emit_ctrlIrqEn (b : Byte) (s : State) : (emit b s).ctrlIrqEn = s.ctrlIrqEn := rfl
@[simp] theorem emit_modeRaw (b : Byte) (s : State) : (emit b s).modeRaw = s.modeRaw := rfl
@[simp] theorem emit_ip (b : Byte) (s : State) : (emit b s).ip = s.ip := rfl
@[simp] theorem emit_bitbuf (b : Byte) (s : State) : (emit b s).bitbuf = s.bitbuf := rfl
@[simp] theorem emit_bitpos (b : Byte) (s : State) : (emit b s).bitpos = s.bitpos := rfl
@[simp] theorem emit_bfinal (b : Byte) (s : State) : (emit b s).bfinal = s.bfinal := rfl
@[simp] theorem emit_btype (b : Byte) (s : State) : (emit b s).btype = s.btype := rfl
@[simp] theorem emit_tblFixed (b : Byte) (s : State) : (emit b s).tblFixed = s.tblFixed := rfl
@[simp] theorem emit_storedRem (b : Byte) (s : State) : (emit b s).storedRem = s.storedRem := rfl
@[simp] theorem emit_xlenRem (b : Byte) (s : State) : (emit b s).xlenRem = s.xlenRem := rfl
@[simp] theorem emit_hlit (b : Byte) (s : State) : (emit b s).hlit = s.hlit := rfl
@[simp] theorem emit_hdist (b : Byte) (s : State) : (emit b s).hdist = s.hdist := rfl
@[simp] theorem emit_hclen (b : Byte) (s : State) : (emit b s).hclen = s.hclen := rfl
@[simp] theorem emit_clLens (b : Byte) (s : State) : (emit b s).clLens = s.clLens := rfl
@[simp] theorem emit_lens (b : Byte) (s : State) : (emit b s).lens = s.lens := rfl
@[simp] theorem emit_idx (b : Byte) (s : State) : (emit b s).idx = s.idx := rfl
@[simp] theorem emit_copyLen (b : Byte) (s : State) : (emit b s).copyLen = s.copyLen := rfl
@[simp] theorem emit_copyDist (b : Byte) (s : State) : (emit b s).copyDist = s.copyDist := rfl
@[simp] theorem emit_window (b : Byte) (s : State) : (emit b s).window = Memory.write s.window s.wpos.toNat b := rfl
@[simp] theorem emit_wpos (b : Byte) (s : State) : (emit b s).wpos = s.wpos + 1 := rfl
@[simp] theorem emit_hist (b : Byte) (s : State) : (emit b s).hist = histNext s.hist := rfl
@[simp] theorem emit_crc (b : Byte) (s : State) : (emit b s).crc = crcStep s.crc b := rfl
@[simp] theorem emit_isize (b : Byte) (s : State) : (emit b s).isize = s.isize + 1 := rfl
@[simp] theorem emit_hcrcAcc (b : Byte) (s : State) : (emit b s).hcrcAcc = s.hcrcAcc := rfl
@[simp] theorem emit_hdrCm (b : Byte) (s : State) : (emit b s).hdrCm = s.hdrCm := rfl
@[simp] theorem emit_hdrFlg (b : Byte) (s : State) : (emit b s).hdrFlg = s.hdrFlg := rfl
@[simp] theorem emit_hdrMtime (b : Byte) (s : State) : (emit b s).hdrMtime = s.hdrMtime := rfl
@[simp] theorem emit_hdrXfl (b : Byte) (s : State) : (emit b s).hdrXfl = s.hdrXfl := rfl
@[simp] theorem emit_hdrOs (b : Byte) (s : State) : (emit b s).hdrOs = s.hdrOs := rfl
@[simp] theorem emit_hcrcField (b : Byte) (s : State) : (emit b s).hcrcField = s.hcrcField := rfl
@[simp] theorem emit_hcrcCalc (b : Byte) (s : State) : (emit b s).hcrcCalc = s.hcrcCalc := rfl
@[simp] theorem emit_trlCrc (b : Byte) (s : State) : (emit b s).trlCrc = s.trlCrc := rfl
@[simp] theorem emit_trlIsize (b : Byte) (s : State) : (emit b s).trlIsize = s.trlIsize := rfl
@[simp] theorem emit_errCode (b : Byte) (s : State) : (emit b s).errCode = s.errCode := rfl
@[simp] theorem emit_errDetail (b : Byte) (s : State) : (emit b s).errDetail = s.errDetail := rfl
@[simp] theorem emit_errOrigin (b : Byte) (s : State) : (emit b s).errOrigin = s.errOrigin := rfl
@[simp] theorem emit_warnHcrc (b : Byte) (s : State) : (emit b s).warnHcrc = s.warnHcrc := rfl
@[simp] theorem emit_warnFlg (b : Byte) (s : State) : (emit b s).warnFlg = s.warnFlg := rfl
@[simp] theorem emit_inBytes (b : Byte) (s : State) : (emit b s).inBytes = s.inBytes := rfl
@[simp] theorem emit_inEnd (b : Byte) (s : State) : (emit b s).inEnd = s.inEnd := rfl
@[simp] theorem emit_outBytes (b : Byte) (s : State) : (emit b s).outBytes = s.outBytes ++ [b] := rfl
@[simp] theorem emit_outReady (b : Byte) (s : State) : (emit b s).outReady = s.outReady := rfl
@[simp] theorem emit_regRdata (b : Byte) (s : State) : (emit b s).regRdata = s.regRdata := rfl
@[simp] theorem emit_matchLen (b : Byte) (s : State) : (emit b s).matchLen = s.matchLen := rfl
@[simp] theorem emit_inFlow (b : Byte) (s : State) : (emit b s).inFlow = s.inFlow := rfl
@[simp] theorem emit_draws (b : Byte) (s : State) : (emit b s).draws = s.draws := rfl
@[simp] theorem emit_wEpoch (b : Byte) (s : State) : (emit b s).wEpoch = s.wEpoch := rfl
@[simp] theorem emit_agenda (b : Byte) (s : State) : (emit b s).agenda = s.agenda := rfl

@[simp] theorem endOfBlock_phase (s : State) : (endOfBlock s).phase = endPhase s := rfl
@[simp] theorem endOfBlock_ctrlRaw (s : State) : (endOfBlock s).ctrlRaw = s.ctrlRaw := rfl
@[simp] theorem endOfBlock_ctrlIrqEn (s : State) : (endOfBlock s).ctrlIrqEn = s.ctrlIrqEn := rfl
@[simp] theorem endOfBlock_modeRaw (s : State) : (endOfBlock s).modeRaw = s.modeRaw := rfl
@[simp] theorem endOfBlock_ip (s : State) : (endOfBlock s).ip = s.ip := rfl
@[simp] theorem endOfBlock_bitbuf (s : State) : (endOfBlock s).bitbuf = s.bitbuf := rfl
@[simp] theorem endOfBlock_bitpos (s : State) : (endOfBlock s).bitpos = if s.bfinal && s.modeRaw then 8 else s.bitpos := rfl
@[simp] theorem endOfBlock_bfinal (s : State) : (endOfBlock s).bfinal = s.bfinal := rfl
@[simp] theorem endOfBlock_btype (s : State) : (endOfBlock s).btype = s.btype := rfl
@[simp] theorem endOfBlock_tblFixed (s : State) : (endOfBlock s).tblFixed = s.tblFixed := rfl
@[simp] theorem endOfBlock_storedRem (s : State) : (endOfBlock s).storedRem = s.storedRem := rfl
@[simp] theorem endOfBlock_xlenRem (s : State) : (endOfBlock s).xlenRem = s.xlenRem := rfl
@[simp] theorem endOfBlock_hlit (s : State) : (endOfBlock s).hlit = s.hlit := rfl
@[simp] theorem endOfBlock_hdist (s : State) : (endOfBlock s).hdist = s.hdist := rfl
@[simp] theorem endOfBlock_hclen (s : State) : (endOfBlock s).hclen = s.hclen := rfl
@[simp] theorem endOfBlock_clLens (s : State) : (endOfBlock s).clLens = s.clLens := rfl
@[simp] theorem endOfBlock_lens (s : State) : (endOfBlock s).lens = s.lens := rfl
@[simp] theorem endOfBlock_idx (s : State) : (endOfBlock s).idx = s.idx := rfl
@[simp] theorem endOfBlock_copyLen (s : State) : (endOfBlock s).copyLen = s.copyLen := rfl
@[simp] theorem endOfBlock_copyDist (s : State) : (endOfBlock s).copyDist = s.copyDist := rfl
@[simp] theorem endOfBlock_window (s : State) : (endOfBlock s).window = s.window := rfl
@[simp] theorem endOfBlock_wpos (s : State) : (endOfBlock s).wpos = s.wpos := rfl
@[simp] theorem endOfBlock_hist (s : State) : (endOfBlock s).hist = s.hist := rfl
@[simp] theorem endOfBlock_crc (s : State) : (endOfBlock s).crc = s.crc := rfl
@[simp] theorem endOfBlock_isize (s : State) : (endOfBlock s).isize = s.isize := rfl
@[simp] theorem endOfBlock_hcrcAcc (s : State) : (endOfBlock s).hcrcAcc = s.hcrcAcc := rfl
@[simp] theorem endOfBlock_hdrCm (s : State) : (endOfBlock s).hdrCm = s.hdrCm := rfl
@[simp] theorem endOfBlock_hdrFlg (s : State) : (endOfBlock s).hdrFlg = s.hdrFlg := rfl
@[simp] theorem endOfBlock_hdrMtime (s : State) : (endOfBlock s).hdrMtime = s.hdrMtime := rfl
@[simp] theorem endOfBlock_hdrXfl (s : State) : (endOfBlock s).hdrXfl = s.hdrXfl := rfl
@[simp] theorem endOfBlock_hdrOs (s : State) : (endOfBlock s).hdrOs = s.hdrOs := rfl
@[simp] theorem endOfBlock_hcrcField (s : State) : (endOfBlock s).hcrcField = s.hcrcField := rfl
@[simp] theorem endOfBlock_hcrcCalc (s : State) : (endOfBlock s).hcrcCalc = s.hcrcCalc := rfl
@[simp] theorem endOfBlock_trlCrc (s : State) : (endOfBlock s).trlCrc = s.trlCrc := rfl
@[simp] theorem endOfBlock_trlIsize (s : State) : (endOfBlock s).trlIsize = s.trlIsize := rfl
@[simp] theorem endOfBlock_errCode (s : State) : (endOfBlock s).errCode = s.errCode := rfl
@[simp] theorem endOfBlock_errDetail (s : State) : (endOfBlock s).errDetail = s.errDetail := rfl
@[simp] theorem endOfBlock_errOrigin (s : State) : (endOfBlock s).errOrigin = s.errOrigin := rfl
@[simp] theorem endOfBlock_warnHcrc (s : State) : (endOfBlock s).warnHcrc = s.warnHcrc := rfl
@[simp] theorem endOfBlock_warnFlg (s : State) : (endOfBlock s).warnFlg = s.warnFlg := rfl
@[simp] theorem endOfBlock_inBytes (s : State) : (endOfBlock s).inBytes = s.inBytes := rfl
@[simp] theorem endOfBlock_inEnd (s : State) : (endOfBlock s).inEnd = s.inEnd := rfl
@[simp] theorem endOfBlock_outBytes (s : State) : (endOfBlock s).outBytes = s.outBytes := rfl
@[simp] theorem endOfBlock_outReady (s : State) : (endOfBlock s).outReady = s.outReady := rfl
@[simp] theorem endOfBlock_regRdata (s : State) : (endOfBlock s).regRdata = s.regRdata := rfl
@[simp] theorem endOfBlock_matchLen (s : State) : (endOfBlock s).matchLen = s.matchLen := rfl
@[simp] theorem endOfBlock_inFlow (s : State) : (endOfBlock s).inFlow = s.inFlow := rfl
@[simp] theorem endOfBlock_draws (s : State) : (endOfBlock s).draws = s.draws := rfl
@[simp] theorem endOfBlock_wEpoch (s : State) : (endOfBlock s).wEpoch = s.wEpoch := rfl
@[simp] theorem endOfBlock_agenda (s : State) : (endOfBlock s).agenda = s.agenda := rfl

@[simp] theorem nextHeaderField_phase (k : HeaderField) (s : State) : (nextHeaderField k s).phase = nextHeaderPhase k s.hdrFlg := rfl
@[simp] theorem nextHeaderField_ctrlRaw (k : HeaderField) (s : State) : (nextHeaderField k s).ctrlRaw = s.ctrlRaw := rfl
@[simp] theorem nextHeaderField_ctrlIrqEn (k : HeaderField) (s : State) : (nextHeaderField k s).ctrlIrqEn = s.ctrlIrqEn := rfl
@[simp] theorem nextHeaderField_modeRaw (k : HeaderField) (s : State) : (nextHeaderField k s).modeRaw = s.modeRaw := rfl
@[simp] theorem nextHeaderField_ip (k : HeaderField) (s : State) : (nextHeaderField k s).ip = s.ip := rfl
@[simp] theorem nextHeaderField_bitbuf (k : HeaderField) (s : State) : (nextHeaderField k s).bitbuf = s.bitbuf := rfl
@[simp] theorem nextHeaderField_bitpos (k : HeaderField) (s : State) : (nextHeaderField k s).bitpos = s.bitpos := rfl
@[simp] theorem nextHeaderField_bfinal (k : HeaderField) (s : State) : (nextHeaderField k s).bfinal = s.bfinal := rfl
@[simp] theorem nextHeaderField_btype (k : HeaderField) (s : State) : (nextHeaderField k s).btype = s.btype := rfl
@[simp] theorem nextHeaderField_tblFixed (k : HeaderField) (s : State) : (nextHeaderField k s).tblFixed = s.tblFixed := rfl
@[simp] theorem nextHeaderField_storedRem (k : HeaderField) (s : State) : (nextHeaderField k s).storedRem = s.storedRem := rfl
@[simp] theorem nextHeaderField_xlenRem (k : HeaderField) (s : State) : (nextHeaderField k s).xlenRem = s.xlenRem := rfl
@[simp] theorem nextHeaderField_hlit (k : HeaderField) (s : State) : (nextHeaderField k s).hlit = s.hlit := rfl
@[simp] theorem nextHeaderField_hdist (k : HeaderField) (s : State) : (nextHeaderField k s).hdist = s.hdist := rfl
@[simp] theorem nextHeaderField_hclen (k : HeaderField) (s : State) : (nextHeaderField k s).hclen = s.hclen := rfl
@[simp] theorem nextHeaderField_clLens (k : HeaderField) (s : State) : (nextHeaderField k s).clLens = s.clLens := rfl
@[simp] theorem nextHeaderField_lens (k : HeaderField) (s : State) : (nextHeaderField k s).lens = s.lens := rfl
@[simp] theorem nextHeaderField_idx (k : HeaderField) (s : State) : (nextHeaderField k s).idx = s.idx := rfl
@[simp] theorem nextHeaderField_copyLen (k : HeaderField) (s : State) : (nextHeaderField k s).copyLen = s.copyLen := rfl
@[simp] theorem nextHeaderField_copyDist (k : HeaderField) (s : State) : (nextHeaderField k s).copyDist = s.copyDist := rfl
@[simp] theorem nextHeaderField_window (k : HeaderField) (s : State) : (nextHeaderField k s).window = s.window := rfl
@[simp] theorem nextHeaderField_wpos (k : HeaderField) (s : State) : (nextHeaderField k s).wpos = s.wpos := rfl
@[simp] theorem nextHeaderField_hist (k : HeaderField) (s : State) : (nextHeaderField k s).hist = s.hist := rfl
@[simp] theorem nextHeaderField_crc (k : HeaderField) (s : State) : (nextHeaderField k s).crc = s.crc := rfl
@[simp] theorem nextHeaderField_isize (k : HeaderField) (s : State) : (nextHeaderField k s).isize = s.isize := rfl
@[simp] theorem nextHeaderField_hcrcAcc (k : HeaderField) (s : State) : (nextHeaderField k s).hcrcAcc = s.hcrcAcc := rfl
@[simp] theorem nextHeaderField_hdrCm (k : HeaderField) (s : State) : (nextHeaderField k s).hdrCm = s.hdrCm := rfl
@[simp] theorem nextHeaderField_hdrFlg (k : HeaderField) (s : State) : (nextHeaderField k s).hdrFlg = s.hdrFlg := rfl
@[simp] theorem nextHeaderField_hdrMtime (k : HeaderField) (s : State) : (nextHeaderField k s).hdrMtime = s.hdrMtime := rfl
@[simp] theorem nextHeaderField_hdrXfl (k : HeaderField) (s : State) : (nextHeaderField k s).hdrXfl = s.hdrXfl := rfl
@[simp] theorem nextHeaderField_hdrOs (k : HeaderField) (s : State) : (nextHeaderField k s).hdrOs = s.hdrOs := rfl
@[simp] theorem nextHeaderField_hcrcField (k : HeaderField) (s : State) : (nextHeaderField k s).hcrcField = s.hcrcField := rfl
@[simp] theorem nextHeaderField_hcrcCalc (k : HeaderField) (s : State) : (nextHeaderField k s).hcrcCalc = s.hcrcCalc := rfl
@[simp] theorem nextHeaderField_trlCrc (k : HeaderField) (s : State) : (nextHeaderField k s).trlCrc = s.trlCrc := rfl
@[simp] theorem nextHeaderField_trlIsize (k : HeaderField) (s : State) : (nextHeaderField k s).trlIsize = s.trlIsize := rfl
@[simp] theorem nextHeaderField_errCode (k : HeaderField) (s : State) : (nextHeaderField k s).errCode = s.errCode := rfl
@[simp] theorem nextHeaderField_errDetail (k : HeaderField) (s : State) : (nextHeaderField k s).errDetail = s.errDetail := rfl
@[simp] theorem nextHeaderField_errOrigin (k : HeaderField) (s : State) : (nextHeaderField k s).errOrigin = s.errOrigin := rfl
@[simp] theorem nextHeaderField_warnHcrc (k : HeaderField) (s : State) : (nextHeaderField k s).warnHcrc = s.warnHcrc := rfl
@[simp] theorem nextHeaderField_warnFlg (k : HeaderField) (s : State) : (nextHeaderField k s).warnFlg = s.warnFlg := rfl
@[simp] theorem nextHeaderField_inBytes (k : HeaderField) (s : State) : (nextHeaderField k s).inBytes = s.inBytes := rfl
@[simp] theorem nextHeaderField_inEnd (k : HeaderField) (s : State) : (nextHeaderField k s).inEnd = s.inEnd := rfl
@[simp] theorem nextHeaderField_outBytes (k : HeaderField) (s : State) : (nextHeaderField k s).outBytes = s.outBytes := rfl
@[simp] theorem nextHeaderField_outReady (k : HeaderField) (s : State) : (nextHeaderField k s).outReady = s.outReady := rfl
@[simp] theorem nextHeaderField_regRdata (k : HeaderField) (s : State) : (nextHeaderField k s).regRdata = s.regRdata := rfl
@[simp] theorem nextHeaderField_matchLen (k : HeaderField) (s : State) : (nextHeaderField k s).matchLen = s.matchLen := rfl
@[simp] theorem nextHeaderField_inFlow (k : HeaderField) (s : State) : (nextHeaderField k s).inFlow = s.inFlow := rfl
@[simp] theorem nextHeaderField_draws (k : HeaderField) (s : State) : (nextHeaderField k s).draws = s.draws := rfl
@[simp] theorem nextHeaderField_wEpoch (k : HeaderField) (s : State) : (nextHeaderField k s).wEpoch = s.wEpoch := rfl
@[simp] theorem nextHeaderField_agenda (k : HeaderField) (s : State) : (nextHeaderField k s).agenda = s.agenda := rfl

@[simp] theorem raise_phase (e : Err) (s : State) : (raise e s).phase = .error := rfl
@[simp] theorem raise_ctrlRaw (e : Err) (s : State) : (raise e s).ctrlRaw = s.ctrlRaw := rfl
@[simp] theorem raise_ctrlIrqEn (e : Err) (s : State) : (raise e s).ctrlIrqEn = s.ctrlIrqEn := rfl
@[simp] theorem raise_modeRaw (e : Err) (s : State) : (raise e s).modeRaw = s.modeRaw := rfl
@[simp] theorem raise_ip (e : Err) (s : State) : (raise e s).ip = s.ip := rfl
@[simp] theorem raise_bitbuf (e : Err) (s : State) : (raise e s).bitbuf = s.bitbuf := rfl
@[simp] theorem raise_bitpos (e : Err) (s : State) : (raise e s).bitpos = s.bitpos := rfl
@[simp] theorem raise_bfinal (e : Err) (s : State) : (raise e s).bfinal = s.bfinal := rfl
@[simp] theorem raise_btype (e : Err) (s : State) : (raise e s).btype = s.btype := rfl
@[simp] theorem raise_tblFixed (e : Err) (s : State) : (raise e s).tblFixed = s.tblFixed := rfl
@[simp] theorem raise_storedRem (e : Err) (s : State) : (raise e s).storedRem = s.storedRem := rfl
@[simp] theorem raise_xlenRem (e : Err) (s : State) : (raise e s).xlenRem = s.xlenRem := rfl
@[simp] theorem raise_hlit (e : Err) (s : State) : (raise e s).hlit = s.hlit := rfl
@[simp] theorem raise_hdist (e : Err) (s : State) : (raise e s).hdist = s.hdist := rfl
@[simp] theorem raise_hclen (e : Err) (s : State) : (raise e s).hclen = s.hclen := rfl
@[simp] theorem raise_clLens (e : Err) (s : State) : (raise e s).clLens = s.clLens := rfl
@[simp] theorem raise_lens (e : Err) (s : State) : (raise e s).lens = s.lens := rfl
@[simp] theorem raise_idx (e : Err) (s : State) : (raise e s).idx = s.idx := rfl
@[simp] theorem raise_copyLen (e : Err) (s : State) : (raise e s).copyLen = s.copyLen := rfl
@[simp] theorem raise_copyDist (e : Err) (s : State) : (raise e s).copyDist = s.copyDist := rfl
@[simp] theorem raise_window (e : Err) (s : State) : (raise e s).window = s.window := rfl
@[simp] theorem raise_wpos (e : Err) (s : State) : (raise e s).wpos = s.wpos := rfl
@[simp] theorem raise_hist (e : Err) (s : State) : (raise e s).hist = s.hist := rfl
@[simp] theorem raise_crc (e : Err) (s : State) : (raise e s).crc = s.crc := rfl
@[simp] theorem raise_isize (e : Err) (s : State) : (raise e s).isize = s.isize := rfl
@[simp] theorem raise_hcrcAcc (e : Err) (s : State) : (raise e s).hcrcAcc = s.hcrcAcc := rfl
@[simp] theorem raise_hdrCm (e : Err) (s : State) : (raise e s).hdrCm = s.hdrCm := rfl
@[simp] theorem raise_hdrFlg (e : Err) (s : State) : (raise e s).hdrFlg = s.hdrFlg := rfl
@[simp] theorem raise_hdrMtime (e : Err) (s : State) : (raise e s).hdrMtime = s.hdrMtime := rfl
@[simp] theorem raise_hdrXfl (e : Err) (s : State) : (raise e s).hdrXfl = s.hdrXfl := rfl
@[simp] theorem raise_hdrOs (e : Err) (s : State) : (raise e s).hdrOs = s.hdrOs := rfl
@[simp] theorem raise_hcrcField (e : Err) (s : State) : (raise e s).hcrcField = s.hcrcField := rfl
@[simp] theorem raise_hcrcCalc (e : Err) (s : State) : (raise e s).hcrcCalc = s.hcrcCalc := rfl
@[simp] theorem raise_trlCrc (e : Err) (s : State) : (raise e s).trlCrc = s.trlCrc := rfl
@[simp] theorem raise_trlIsize (e : Err) (s : State) : (raise e s).trlIsize = s.trlIsize := rfl
@[simp] theorem raise_errCode (e : Err) (s : State) : (raise e s).errCode = errorCode e := rfl
@[simp] theorem raise_errDetail (e : Err) (s : State) : (raise e s).errDetail = errorDetail e := rfl
@[simp] theorem raise_errOrigin (e : Err) (s : State) : (raise e s).errOrigin = inflatePhase s.phase := rfl
@[simp] theorem raise_warnHcrc (e : Err) (s : State) : (raise e s).warnHcrc = s.warnHcrc := rfl
@[simp] theorem raise_warnFlg (e : Err) (s : State) : (raise e s).warnFlg = s.warnFlg := rfl
@[simp] theorem raise_inBytes (e : Err) (s : State) : (raise e s).inBytes = s.inBytes := rfl
@[simp] theorem raise_inEnd (e : Err) (s : State) : (raise e s).inEnd = s.inEnd := rfl
@[simp] theorem raise_outBytes (e : Err) (s : State) : (raise e s).outBytes = s.outBytes := rfl
@[simp] theorem raise_outReady (e : Err) (s : State) : (raise e s).outReady = s.outReady := rfl
@[simp] theorem raise_regRdata (e : Err) (s : State) : (raise e s).regRdata = s.regRdata := rfl
@[simp] theorem raise_matchLen (e : Err) (s : State) : (raise e s).matchLen = none := rfl
@[simp] theorem raise_inFlow (e : Err) (s : State) : (raise e s).inFlow = s.inFlow := rfl
@[simp] theorem raise_draws (e : Err) (s : State) : (raise e s).draws = s.draws := rfl
@[simp] theorem raise_wEpoch (e : Err) (s : State) : (raise e s).wEpoch = s.wEpoch := rfl
@[simp] theorem raise_agenda (e : Err) (s : State) : (raise e s).agenda = s.agenda := rfl

@[simp] theorem beginMatch_phase (base lx : Nat) (s : State) : (beginMatch base lx s).phase = s.phase := rfl
@[simp] theorem beginMatch_ctrlRaw (base lx : Nat) (s : State) : (beginMatch base lx s).ctrlRaw = s.ctrlRaw := rfl
@[simp] theorem beginMatch_ctrlIrqEn (base lx : Nat) (s : State) : (beginMatch base lx s).ctrlIrqEn = s.ctrlIrqEn := rfl
@[simp] theorem beginMatch_modeRaw (base lx : Nat) (s : State) : (beginMatch base lx s).modeRaw = s.modeRaw := rfl
@[simp] theorem beginMatch_ip (base lx : Nat) (s : State) : (beginMatch base lx s).ip = s.ip := rfl
@[simp] theorem beginMatch_bitbuf (base lx : Nat) (s : State) : (beginMatch base lx s).bitbuf = s.bitbuf := rfl
@[simp] theorem beginMatch_bitpos (base lx : Nat) (s : State) : (beginMatch base lx s).bitpos = s.bitpos := rfl
@[simp] theorem beginMatch_bfinal (base lx : Nat) (s : State) : (beginMatch base lx s).bfinal = s.bfinal := rfl
@[simp] theorem beginMatch_btype (base lx : Nat) (s : State) : (beginMatch base lx s).btype = s.btype := rfl
@[simp] theorem beginMatch_tblFixed (base lx : Nat) (s : State) : (beginMatch base lx s).tblFixed = s.tblFixed := rfl
@[simp] theorem beginMatch_storedRem (base lx : Nat) (s : State) : (beginMatch base lx s).storedRem = s.storedRem := rfl
@[simp] theorem beginMatch_xlenRem (base lx : Nat) (s : State) : (beginMatch base lx s).xlenRem = s.xlenRem := rfl
@[simp] theorem beginMatch_hlit (base lx : Nat) (s : State) : (beginMatch base lx s).hlit = s.hlit := rfl
@[simp] theorem beginMatch_hdist (base lx : Nat) (s : State) : (beginMatch base lx s).hdist = s.hdist := rfl
@[simp] theorem beginMatch_hclen (base lx : Nat) (s : State) : (beginMatch base lx s).hclen = s.hclen := rfl
@[simp] theorem beginMatch_clLens (base lx : Nat) (s : State) : (beginMatch base lx s).clLens = s.clLens := rfl
@[simp] theorem beginMatch_lens (base lx : Nat) (s : State) : (beginMatch base lx s).lens = s.lens := rfl
@[simp] theorem beginMatch_idx (base lx : Nat) (s : State) : (beginMatch base lx s).idx = s.idx := rfl
@[simp] theorem beginMatch_copyLen (base lx : Nat) (s : State) : (beginMatch base lx s).copyLen = s.copyLen := rfl
@[simp] theorem beginMatch_copyDist (base lx : Nat) (s : State) : (beginMatch base lx s).copyDist = s.copyDist := rfl
@[simp] theorem beginMatch_window (base lx : Nat) (s : State) : (beginMatch base lx s).window = s.window := rfl
@[simp] theorem beginMatch_wpos (base lx : Nat) (s : State) : (beginMatch base lx s).wpos = s.wpos := rfl
@[simp] theorem beginMatch_hist (base lx : Nat) (s : State) : (beginMatch base lx s).hist = s.hist := rfl
@[simp] theorem beginMatch_crc (base lx : Nat) (s : State) : (beginMatch base lx s).crc = s.crc := rfl
@[simp] theorem beginMatch_isize (base lx : Nat) (s : State) : (beginMatch base lx s).isize = s.isize := rfl
@[simp] theorem beginMatch_hcrcAcc (base lx : Nat) (s : State) : (beginMatch base lx s).hcrcAcc = s.hcrcAcc := rfl
@[simp] theorem beginMatch_hdrCm (base lx : Nat) (s : State) : (beginMatch base lx s).hdrCm = s.hdrCm := rfl
@[simp] theorem beginMatch_hdrFlg (base lx : Nat) (s : State) : (beginMatch base lx s).hdrFlg = s.hdrFlg := rfl
@[simp] theorem beginMatch_hdrMtime (base lx : Nat) (s : State) : (beginMatch base lx s).hdrMtime = s.hdrMtime := rfl
@[simp] theorem beginMatch_hdrXfl (base lx : Nat) (s : State) : (beginMatch base lx s).hdrXfl = s.hdrXfl := rfl
@[simp] theorem beginMatch_hdrOs (base lx : Nat) (s : State) : (beginMatch base lx s).hdrOs = s.hdrOs := rfl
@[simp] theorem beginMatch_hcrcField (base lx : Nat) (s : State) : (beginMatch base lx s).hcrcField = s.hcrcField := rfl
@[simp] theorem beginMatch_hcrcCalc (base lx : Nat) (s : State) : (beginMatch base lx s).hcrcCalc = s.hcrcCalc := rfl
@[simp] theorem beginMatch_trlCrc (base lx : Nat) (s : State) : (beginMatch base lx s).trlCrc = s.trlCrc := rfl
@[simp] theorem beginMatch_trlIsize (base lx : Nat) (s : State) : (beginMatch base lx s).trlIsize = s.trlIsize := rfl
@[simp] theorem beginMatch_errCode (base lx : Nat) (s : State) : (beginMatch base lx s).errCode = s.errCode := rfl
@[simp] theorem beginMatch_errDetail (base lx : Nat) (s : State) : (beginMatch base lx s).errDetail = s.errDetail := rfl
@[simp] theorem beginMatch_errOrigin (base lx : Nat) (s : State) : (beginMatch base lx s).errOrigin = s.errOrigin := rfl
@[simp] theorem beginMatch_warnHcrc (base lx : Nat) (s : State) : (beginMatch base lx s).warnHcrc = s.warnHcrc := rfl
@[simp] theorem beginMatch_warnFlg (base lx : Nat) (s : State) : (beginMatch base lx s).warnFlg = s.warnFlg := rfl
@[simp] theorem beginMatch_inBytes (base lx : Nat) (s : State) : (beginMatch base lx s).inBytes = s.inBytes := rfl
@[simp] theorem beginMatch_inEnd (base lx : Nat) (s : State) : (beginMatch base lx s).inEnd = s.inEnd := rfl
@[simp] theorem beginMatch_outBytes (base lx : Nat) (s : State) : (beginMatch base lx s).outBytes = s.outBytes := rfl
@[simp] theorem beginMatch_outReady (base lx : Nat) (s : State) : (beginMatch base lx s).outReady = s.outReady := rfl
@[simp] theorem beginMatch_regRdata (base lx : Nat) (s : State) : (beginMatch base lx s).regRdata = s.regRdata := rfl
@[simp] theorem beginMatch_matchLen (base lx : Nat) (s : State) : (beginMatch base lx s).matchLen = some (matchLength base lx) := rfl
@[simp] theorem beginMatch_inFlow (base lx : Nat) (s : State) : (beginMatch base lx s).inFlow = s.inFlow := rfl
@[simp] theorem beginMatch_draws (base lx : Nat) (s : State) : (beginMatch base lx s).draws = s.draws := rfl
@[simp] theorem beginMatch_wEpoch (base lx : Nat) (s : State) : (beginMatch base lx s).wEpoch = s.wEpoch := rfl
@[simp] theorem beginMatch_agenda (base lx : Nat) (s : State) : (beginMatch base lx s).agenda = s.agenda := rfl

@[simp] theorem countCopy_phase (s : State) : (countCopy s).phase = if s.copyLen - 1 = 0 then .symbol else s.phase := rfl
@[simp] theorem countCopy_ctrlRaw (s : State) : (countCopy s).ctrlRaw = s.ctrlRaw := rfl
@[simp] theorem countCopy_ctrlIrqEn (s : State) : (countCopy s).ctrlIrqEn = s.ctrlIrqEn := rfl
@[simp] theorem countCopy_modeRaw (s : State) : (countCopy s).modeRaw = s.modeRaw := rfl
@[simp] theorem countCopy_ip (s : State) : (countCopy s).ip = s.ip := rfl
@[simp] theorem countCopy_bitbuf (s : State) : (countCopy s).bitbuf = s.bitbuf := rfl
@[simp] theorem countCopy_bitpos (s : State) : (countCopy s).bitpos = s.bitpos := rfl
@[simp] theorem countCopy_bfinal (s : State) : (countCopy s).bfinal = s.bfinal := rfl
@[simp] theorem countCopy_btype (s : State) : (countCopy s).btype = s.btype := rfl
@[simp] theorem countCopy_tblFixed (s : State) : (countCopy s).tblFixed = s.tblFixed := rfl
@[simp] theorem countCopy_storedRem (s : State) : (countCopy s).storedRem = s.storedRem := rfl
@[simp] theorem countCopy_xlenRem (s : State) : (countCopy s).xlenRem = s.xlenRem := rfl
@[simp] theorem countCopy_hlit (s : State) : (countCopy s).hlit = s.hlit := rfl
@[simp] theorem countCopy_hdist (s : State) : (countCopy s).hdist = s.hdist := rfl
@[simp] theorem countCopy_hclen (s : State) : (countCopy s).hclen = s.hclen := rfl
@[simp] theorem countCopy_clLens (s : State) : (countCopy s).clLens = s.clLens := rfl
@[simp] theorem countCopy_lens (s : State) : (countCopy s).lens = s.lens := rfl
@[simp] theorem countCopy_idx (s : State) : (countCopy s).idx = s.idx := rfl
@[simp] theorem countCopy_copyLen (s : State) : (countCopy s).copyLen = s.copyLen - 1 := rfl
@[simp] theorem countCopy_copyDist (s : State) : (countCopy s).copyDist = s.copyDist := rfl
@[simp] theorem countCopy_window (s : State) : (countCopy s).window = s.window := rfl
@[simp] theorem countCopy_wpos (s : State) : (countCopy s).wpos = s.wpos := rfl
@[simp] theorem countCopy_hist (s : State) : (countCopy s).hist = s.hist := rfl
@[simp] theorem countCopy_crc (s : State) : (countCopy s).crc = s.crc := rfl
@[simp] theorem countCopy_isize (s : State) : (countCopy s).isize = s.isize := rfl
@[simp] theorem countCopy_hcrcAcc (s : State) : (countCopy s).hcrcAcc = s.hcrcAcc := rfl
@[simp] theorem countCopy_hdrCm (s : State) : (countCopy s).hdrCm = s.hdrCm := rfl
@[simp] theorem countCopy_hdrFlg (s : State) : (countCopy s).hdrFlg = s.hdrFlg := rfl
@[simp] theorem countCopy_hdrMtime (s : State) : (countCopy s).hdrMtime = s.hdrMtime := rfl
@[simp] theorem countCopy_hdrXfl (s : State) : (countCopy s).hdrXfl = s.hdrXfl := rfl
@[simp] theorem countCopy_hdrOs (s : State) : (countCopy s).hdrOs = s.hdrOs := rfl
@[simp] theorem countCopy_hcrcField (s : State) : (countCopy s).hcrcField = s.hcrcField := rfl
@[simp] theorem countCopy_hcrcCalc (s : State) : (countCopy s).hcrcCalc = s.hcrcCalc := rfl
@[simp] theorem countCopy_trlCrc (s : State) : (countCopy s).trlCrc = s.trlCrc := rfl
@[simp] theorem countCopy_trlIsize (s : State) : (countCopy s).trlIsize = s.trlIsize := rfl
@[simp] theorem countCopy_errCode (s : State) : (countCopy s).errCode = s.errCode := rfl
@[simp] theorem countCopy_errDetail (s : State) : (countCopy s).errDetail = s.errDetail := rfl
@[simp] theorem countCopy_errOrigin (s : State) : (countCopy s).errOrigin = s.errOrigin := rfl
@[simp] theorem countCopy_warnHcrc (s : State) : (countCopy s).warnHcrc = s.warnHcrc := rfl
@[simp] theorem countCopy_warnFlg (s : State) : (countCopy s).warnFlg = s.warnFlg := rfl
@[simp] theorem countCopy_inBytes (s : State) : (countCopy s).inBytes = s.inBytes := rfl
@[simp] theorem countCopy_inEnd (s : State) : (countCopy s).inEnd = s.inEnd := rfl
@[simp] theorem countCopy_outBytes (s : State) : (countCopy s).outBytes = s.outBytes := rfl
@[simp] theorem countCopy_outReady (s : State) : (countCopy s).outReady = s.outReady := rfl
@[simp] theorem countCopy_regRdata (s : State) : (countCopy s).regRdata = s.regRdata := rfl
@[simp] theorem countCopy_matchLen (s : State) : (countCopy s).matchLen = s.matchLen := rfl
@[simp] theorem countCopy_inFlow (s : State) : (countCopy s).inFlow = s.inFlow := rfl
@[simp] theorem countCopy_draws (s : State) : (countCopy s).draws = s.draws := rfl
@[simp] theorem countCopy_wEpoch (s : State) : (countCopy s).wEpoch = s.wEpoch := rfl
@[simp] theorem countCopy_agenda (s : State) : (countCopy s).agenda = s.agenda := rfl

@[simp] theorem resetSession_phase (s : State) : (resetSession s).phase = .idle := rfl
@[simp] theorem resetSession_ctrlRaw (s : State) : (resetSession s).ctrlRaw = s.ctrlRaw := rfl
@[simp] theorem resetSession_ctrlIrqEn (s : State) : (resetSession s).ctrlIrqEn = s.ctrlIrqEn := rfl
@[simp] theorem resetSession_modeRaw (s : State) : (resetSession s).modeRaw = false := rfl
@[simp] theorem resetSession_ip (s : State) : (resetSession s).ip = 0 := rfl
@[simp] theorem resetSession_bitbuf (s : State) : (resetSession s).bitbuf = 0 := rfl
@[simp] theorem resetSession_bitpos (s : State) : (resetSession s).bitpos = 8 := rfl
@[simp] theorem resetSession_bfinal (s : State) : (resetSession s).bfinal = false := rfl
@[simp] theorem resetSession_btype (s : State) : (resetSession s).btype = 0 := rfl
@[simp] theorem resetSession_tblFixed (s : State) : (resetSession s).tblFixed = false := rfl
@[simp] theorem resetSession_storedRem (s : State) : (resetSession s).storedRem = 0 := rfl
@[simp] theorem resetSession_xlenRem (s : State) : (resetSession s).xlenRem = 0 := rfl
@[simp] theorem resetSession_hlit (s : State) : (resetSession s).hlit = 0 := rfl
@[simp] theorem resetSession_hdist (s : State) : (resetSession s).hdist = 0 := rfl
@[simp] theorem resetSession_hclen (s : State) : (resetSession s).hclen = 0 := rfl
@[simp] theorem resetSession_clLens (s : State) : (resetSession s).clLens = Vector.replicate 19 0 := rfl
@[simp] theorem resetSession_lens (s : State) : (resetSession s).lens = Vector.replicate 316 0 := rfl
@[simp] theorem resetSession_idx (s : State) : (resetSession s).idx = 0 := rfl
@[simp] theorem resetSession_copyLen (s : State) : (resetSession s).copyLen = 0 := rfl
@[simp] theorem resetSession_copyDist (s : State) : (resetSession s).copyDist = 0 := rfl
@[simp] theorem resetSession_window (s : State) : (resetSession s).window = s.window := rfl
@[simp] theorem resetSession_wpos (s : State) : (resetSession s).wpos = 0 := rfl
@[simp] theorem resetSession_hist (s : State) : (resetSession s).hist = 0 := rfl
@[simp] theorem resetSession_crc (s : State) : (resetSession s).crc = 0xFFFFFFFF := rfl
@[simp] theorem resetSession_isize (s : State) : (resetSession s).isize = 0 := rfl
@[simp] theorem resetSession_hcrcAcc (s : State) : (resetSession s).hcrcAcc = 0xFFFFFFFF := rfl
@[simp] theorem resetSession_hdrCm (s : State) : (resetSession s).hdrCm = 0 := rfl
@[simp] theorem resetSession_hdrFlg (s : State) : (resetSession s).hdrFlg = 0 := rfl
@[simp] theorem resetSession_hdrMtime (s : State) : (resetSession s).hdrMtime = 0 := rfl
@[simp] theorem resetSession_hdrXfl (s : State) : (resetSession s).hdrXfl = 0 := rfl
@[simp] theorem resetSession_hdrOs (s : State) : (resetSession s).hdrOs = 0 := rfl
@[simp] theorem resetSession_hcrcField (s : State) : (resetSession s).hcrcField = 0 := rfl
@[simp] theorem resetSession_hcrcCalc (s : State) : (resetSession s).hcrcCalc = 0 := rfl
@[simp] theorem resetSession_trlCrc (s : State) : (resetSession s).trlCrc = 0 := rfl
@[simp] theorem resetSession_trlIsize (s : State) : (resetSession s).trlIsize = 0 := rfl
@[simp] theorem resetSession_errCode (s : State) : (resetSession s).errCode = 0 := rfl
@[simp] theorem resetSession_errDetail (s : State) : (resetSession s).errDetail = 0 := rfl
@[simp] theorem resetSession_errOrigin (s : State) : (resetSession s).errOrigin = false := rfl
@[simp] theorem resetSession_warnHcrc (s : State) : (resetSession s).warnHcrc = false := rfl
@[simp] theorem resetSession_warnFlg (s : State) : (resetSession s).warnFlg = false := rfl
@[simp] theorem resetSession_inBytes (s : State) : (resetSession s).inBytes = [] := rfl
@[simp] theorem resetSession_inEnd (s : State) : (resetSession s).inEnd = false := rfl
@[simp] theorem resetSession_outBytes (s : State) : (resetSession s).outBytes = [] := rfl
@[simp] theorem resetSession_outReady (s : State) : (resetSession s).outReady = s.outReady := rfl
@[simp] theorem resetSession_regRdata (s : State) : (resetSession s).regRdata = s.regRdata := rfl
@[simp] theorem resetSession_matchLen (s : State) : (resetSession s).matchLen = none := rfl
@[simp] theorem resetSession_inFlow (s : State) : (resetSession s).inFlow = s.inFlow := rfl
@[simp] theorem resetSession_draws (s : State) : (resetSession s).draws = s.draws := rfl
@[simp] theorem resetSession_wEpoch (s : State) : (resetSession s).wEpoch = s.wEpoch := rfl
@[simp] theorem resetSession_agenda (s : State) : (resetSession s).agenda = s.agenda := rfl

@[simp] theorem startSession_phase (s : State) : (startSession s).phase = startPhase s.ctrlRaw := rfl
@[simp] theorem startSession_ctrlRaw (s : State) : (startSession s).ctrlRaw = s.ctrlRaw := rfl
@[simp] theorem startSession_ctrlIrqEn (s : State) : (startSession s).ctrlIrqEn = s.ctrlIrqEn := rfl
@[simp] theorem startSession_modeRaw (s : State) : (startSession s).modeRaw = s.ctrlRaw := rfl
@[simp] theorem startSession_ip (s : State) : (startSession s).ip = 0 := rfl
@[simp] theorem startSession_bitbuf (s : State) : (startSession s).bitbuf = 0 := rfl
@[simp] theorem startSession_bitpos (s : State) : (startSession s).bitpos = 8 := rfl
@[simp] theorem startSession_bfinal (s : State) : (startSession s).bfinal = false := rfl
@[simp] theorem startSession_btype (s : State) : (startSession s).btype = 0 := rfl
@[simp] theorem startSession_tblFixed (s : State) : (startSession s).tblFixed = false := rfl
@[simp] theorem startSession_storedRem (s : State) : (startSession s).storedRem = 0 := rfl
@[simp] theorem startSession_xlenRem (s : State) : (startSession s).xlenRem = 0 := rfl
@[simp] theorem startSession_hlit (s : State) : (startSession s).hlit = 0 := rfl
@[simp] theorem startSession_hdist (s : State) : (startSession s).hdist = 0 := rfl
@[simp] theorem startSession_hclen (s : State) : (startSession s).hclen = 0 := rfl
@[simp] theorem startSession_clLens (s : State) : (startSession s).clLens = Vector.replicate 19 0 := rfl
@[simp] theorem startSession_lens (s : State) : (startSession s).lens = Vector.replicate 316 0 := rfl
@[simp] theorem startSession_idx (s : State) : (startSession s).idx = 0 := rfl
@[simp] theorem startSession_copyLen (s : State) : (startSession s).copyLen = 0 := rfl
@[simp] theorem startSession_copyDist (s : State) : (startSession s).copyDist = 0 := rfl
@[simp] theorem startSession_window (s : State) : (startSession s).window = s.window := rfl
@[simp] theorem startSession_wpos (s : State) : (startSession s).wpos = 0 := rfl
@[simp] theorem startSession_hist (s : State) : (startSession s).hist = 0 := rfl
@[simp] theorem startSession_crc (s : State) : (startSession s).crc = 0xFFFFFFFF := rfl
@[simp] theorem startSession_isize (s : State) : (startSession s).isize = 0 := rfl
@[simp] theorem startSession_hcrcAcc (s : State) : (startSession s).hcrcAcc = 0xFFFFFFFF := rfl
@[simp] theorem startSession_hdrCm (s : State) : (startSession s).hdrCm = 0 := rfl
@[simp] theorem startSession_hdrFlg (s : State) : (startSession s).hdrFlg = 0 := rfl
@[simp] theorem startSession_hdrMtime (s : State) : (startSession s).hdrMtime = 0 := rfl
@[simp] theorem startSession_hdrXfl (s : State) : (startSession s).hdrXfl = 0 := rfl
@[simp] theorem startSession_hdrOs (s : State) : (startSession s).hdrOs = 0 := rfl
@[simp] theorem startSession_hcrcField (s : State) : (startSession s).hcrcField = 0 := rfl
@[simp] theorem startSession_hcrcCalc (s : State) : (startSession s).hcrcCalc = 0 := rfl
@[simp] theorem startSession_trlCrc (s : State) : (startSession s).trlCrc = 0 := rfl
@[simp] theorem startSession_trlIsize (s : State) : (startSession s).trlIsize = 0 := rfl
@[simp] theorem startSession_errCode (s : State) : (startSession s).errCode = 0 := rfl
@[simp] theorem startSession_errDetail (s : State) : (startSession s).errDetail = 0 := rfl
@[simp] theorem startSession_errOrigin (s : State) : (startSession s).errOrigin = false := rfl
@[simp] theorem startSession_warnHcrc (s : State) : (startSession s).warnHcrc = false := rfl
@[simp] theorem startSession_warnFlg (s : State) : (startSession s).warnFlg = false := rfl
@[simp] theorem startSession_inBytes (s : State) : (startSession s).inBytes = [] := rfl
@[simp] theorem startSession_inEnd (s : State) : (startSession s).inEnd = false := rfl
@[simp] theorem startSession_outBytes (s : State) : (startSession s).outBytes = [] := rfl
@[simp] theorem startSession_outReady (s : State) : (startSession s).outReady = s.outReady := rfl
@[simp] theorem startSession_regRdata (s : State) : (startSession s).regRdata = s.regRdata := rfl
@[simp] theorem startSession_matchLen (s : State) : (startSession s).matchLen = none := rfl
@[simp] theorem startSession_inFlow (s : State) : (startSession s).inFlow = s.inFlow := rfl
@[simp] theorem startSession_draws (s : State) : (startSession s).draws = s.draws := rfl
@[simp] theorem startSession_wEpoch (s : State) : (startSession s).wEpoch = s.wEpoch := rfl
@[simp] theorem startSession_agenda (s : State) : (startSession s).agenda = s.agenda := rfl

@[simp] theorem hardwareReset_phase (s : State) : (hardwareReset s).phase = .idle := rfl
@[simp] theorem hardwareReset_ctrlRaw (s : State) : (hardwareReset s).ctrlRaw = false := rfl
@[simp] theorem hardwareReset_ctrlIrqEn (s : State) : (hardwareReset s).ctrlIrqEn = false := rfl
@[simp] theorem hardwareReset_modeRaw (s : State) : (hardwareReset s).modeRaw = false := rfl
@[simp] theorem hardwareReset_ip (s : State) : (hardwareReset s).ip = 0 := rfl
@[simp] theorem hardwareReset_bitbuf (s : State) : (hardwareReset s).bitbuf = 0 := rfl
@[simp] theorem hardwareReset_bitpos (s : State) : (hardwareReset s).bitpos = 8 := rfl
@[simp] theorem hardwareReset_bfinal (s : State) : (hardwareReset s).bfinal = false := rfl
@[simp] theorem hardwareReset_btype (s : State) : (hardwareReset s).btype = 0 := rfl
@[simp] theorem hardwareReset_tblFixed (s : State) : (hardwareReset s).tblFixed = false := rfl
@[simp] theorem hardwareReset_storedRem (s : State) : (hardwareReset s).storedRem = 0 := rfl
@[simp] theorem hardwareReset_xlenRem (s : State) : (hardwareReset s).xlenRem = 0 := rfl
@[simp] theorem hardwareReset_hlit (s : State) : (hardwareReset s).hlit = 0 := rfl
@[simp] theorem hardwareReset_hdist (s : State) : (hardwareReset s).hdist = 0 := rfl
@[simp] theorem hardwareReset_hclen (s : State) : (hardwareReset s).hclen = 0 := rfl
@[simp] theorem hardwareReset_clLens (s : State) : (hardwareReset s).clLens = Vector.replicate 19 0 := rfl
@[simp] theorem hardwareReset_lens (s : State) : (hardwareReset s).lens = Vector.replicate 316 0 := rfl
@[simp] theorem hardwareReset_idx (s : State) : (hardwareReset s).idx = 0 := rfl
@[simp] theorem hardwareReset_copyLen (s : State) : (hardwareReset s).copyLen = 0 := rfl
@[simp] theorem hardwareReset_copyDist (s : State) : (hardwareReset s).copyDist = 0 := rfl
@[simp] theorem hardwareReset_window (s : State) : (hardwareReset s).window = [] := rfl
@[simp] theorem hardwareReset_wpos (s : State) : (hardwareReset s).wpos = 0 := rfl
@[simp] theorem hardwareReset_hist (s : State) : (hardwareReset s).hist = 0 := rfl
@[simp] theorem hardwareReset_crc (s : State) : (hardwareReset s).crc = 0xFFFFFFFF := rfl
@[simp] theorem hardwareReset_isize (s : State) : (hardwareReset s).isize = 0 := rfl
@[simp] theorem hardwareReset_hcrcAcc (s : State) : (hardwareReset s).hcrcAcc = 0xFFFFFFFF := rfl
@[simp] theorem hardwareReset_hdrCm (s : State) : (hardwareReset s).hdrCm = 0 := rfl
@[simp] theorem hardwareReset_hdrFlg (s : State) : (hardwareReset s).hdrFlg = 0 := rfl
@[simp] theorem hardwareReset_hdrMtime (s : State) : (hardwareReset s).hdrMtime = 0 := rfl
@[simp] theorem hardwareReset_hdrXfl (s : State) : (hardwareReset s).hdrXfl = 0 := rfl
@[simp] theorem hardwareReset_hdrOs (s : State) : (hardwareReset s).hdrOs = 0 := rfl
@[simp] theorem hardwareReset_hcrcField (s : State) : (hardwareReset s).hcrcField = 0 := rfl
@[simp] theorem hardwareReset_hcrcCalc (s : State) : (hardwareReset s).hcrcCalc = 0 := rfl
@[simp] theorem hardwareReset_trlCrc (s : State) : (hardwareReset s).trlCrc = 0 := rfl
@[simp] theorem hardwareReset_trlIsize (s : State) : (hardwareReset s).trlIsize = 0 := rfl
@[simp] theorem hardwareReset_errCode (s : State) : (hardwareReset s).errCode = 0 := rfl
@[simp] theorem hardwareReset_errDetail (s : State) : (hardwareReset s).errDetail = 0 := rfl
@[simp] theorem hardwareReset_errOrigin (s : State) : (hardwareReset s).errOrigin = false := rfl
@[simp] theorem hardwareReset_warnHcrc (s : State) : (hardwareReset s).warnHcrc = false := rfl
@[simp] theorem hardwareReset_warnFlg (s : State) : (hardwareReset s).warnFlg = false := rfl
@[simp] theorem hardwareReset_inBytes (s : State) : (hardwareReset s).inBytes = [] := rfl
@[simp] theorem hardwareReset_inEnd (s : State) : (hardwareReset s).inEnd = false := rfl
@[simp] theorem hardwareReset_outBytes (s : State) : (hardwareReset s).outBytes = [] := rfl
@[simp] theorem hardwareReset_outReady (s : State) : (hardwareReset s).outReady = s.outReady := rfl
@[simp] theorem hardwareReset_regRdata (s : State) : (hardwareReset s).regRdata = s.regRdata := rfl
@[simp] theorem hardwareReset_matchLen (s : State) : (hardwareReset s).matchLen = none := rfl
@[simp] theorem hardwareReset_inFlow (s : State) : (hardwareReset s).inFlow = s.inFlow := rfl
@[simp] theorem hardwareReset_draws (s : State) : (hardwareReset s).draws = s.draws := rfl
@[simp] theorem hardwareReset_wEpoch (s : State) : (hardwareReset s).wEpoch = s.wEpoch + 1 := rfl
@[simp] theorem hardwareReset_agenda (s : State) : (hardwareReset s).agenda = s.agenda := rfl

@[simp] theorem writeCtrlFields_phase (v : Word) (s : State) : (writeCtrlFields v s).phase = s.phase := rfl
@[simp] theorem writeCtrlFields_ctrlRaw (v : Word) (s : State) : (writeCtrlFields v s).ctrlRaw = v.getLsbD 2 := rfl
@[simp] theorem writeCtrlFields_ctrlIrqEn (v : Word) (s : State) : (writeCtrlFields v s).ctrlIrqEn = v.getLsbD 3 := rfl
@[simp] theorem writeCtrlFields_modeRaw (v : Word) (s : State) : (writeCtrlFields v s).modeRaw = s.modeRaw := rfl
@[simp] theorem writeCtrlFields_ip (v : Word) (s : State) : (writeCtrlFields v s).ip = s.ip := rfl
@[simp] theorem writeCtrlFields_bitbuf (v : Word) (s : State) : (writeCtrlFields v s).bitbuf = s.bitbuf := rfl
@[simp] theorem writeCtrlFields_bitpos (v : Word) (s : State) : (writeCtrlFields v s).bitpos = s.bitpos := rfl
@[simp] theorem writeCtrlFields_bfinal (v : Word) (s : State) : (writeCtrlFields v s).bfinal = s.bfinal := rfl
@[simp] theorem writeCtrlFields_btype (v : Word) (s : State) : (writeCtrlFields v s).btype = s.btype := rfl
@[simp] theorem writeCtrlFields_tblFixed (v : Word) (s : State) : (writeCtrlFields v s).tblFixed = s.tblFixed := rfl
@[simp] theorem writeCtrlFields_storedRem (v : Word) (s : State) : (writeCtrlFields v s).storedRem = s.storedRem := rfl
@[simp] theorem writeCtrlFields_xlenRem (v : Word) (s : State) : (writeCtrlFields v s).xlenRem = s.xlenRem := rfl
@[simp] theorem writeCtrlFields_hlit (v : Word) (s : State) : (writeCtrlFields v s).hlit = s.hlit := rfl
@[simp] theorem writeCtrlFields_hdist (v : Word) (s : State) : (writeCtrlFields v s).hdist = s.hdist := rfl
@[simp] theorem writeCtrlFields_hclen (v : Word) (s : State) : (writeCtrlFields v s).hclen = s.hclen := rfl
@[simp] theorem writeCtrlFields_clLens (v : Word) (s : State) : (writeCtrlFields v s).clLens = s.clLens := rfl
@[simp] theorem writeCtrlFields_lens (v : Word) (s : State) : (writeCtrlFields v s).lens = s.lens := rfl
@[simp] theorem writeCtrlFields_idx (v : Word) (s : State) : (writeCtrlFields v s).idx = s.idx := rfl
@[simp] theorem writeCtrlFields_copyLen (v : Word) (s : State) : (writeCtrlFields v s).copyLen = s.copyLen := rfl
@[simp] theorem writeCtrlFields_copyDist (v : Word) (s : State) : (writeCtrlFields v s).copyDist = s.copyDist := rfl
@[simp] theorem writeCtrlFields_window (v : Word) (s : State) : (writeCtrlFields v s).window = s.window := rfl
@[simp] theorem writeCtrlFields_wpos (v : Word) (s : State) : (writeCtrlFields v s).wpos = s.wpos := rfl
@[simp] theorem writeCtrlFields_hist (v : Word) (s : State) : (writeCtrlFields v s).hist = s.hist := rfl
@[simp] theorem writeCtrlFields_crc (v : Word) (s : State) : (writeCtrlFields v s).crc = s.crc := rfl
@[simp] theorem writeCtrlFields_isize (v : Word) (s : State) : (writeCtrlFields v s).isize = s.isize := rfl
@[simp] theorem writeCtrlFields_hcrcAcc (v : Word) (s : State) : (writeCtrlFields v s).hcrcAcc = s.hcrcAcc := rfl
@[simp] theorem writeCtrlFields_hdrCm (v : Word) (s : State) : (writeCtrlFields v s).hdrCm = s.hdrCm := rfl
@[simp] theorem writeCtrlFields_hdrFlg (v : Word) (s : State) : (writeCtrlFields v s).hdrFlg = s.hdrFlg := rfl
@[simp] theorem writeCtrlFields_hdrMtime (v : Word) (s : State) : (writeCtrlFields v s).hdrMtime = s.hdrMtime := rfl
@[simp] theorem writeCtrlFields_hdrXfl (v : Word) (s : State) : (writeCtrlFields v s).hdrXfl = s.hdrXfl := rfl
@[simp] theorem writeCtrlFields_hdrOs (v : Word) (s : State) : (writeCtrlFields v s).hdrOs = s.hdrOs := rfl
@[simp] theorem writeCtrlFields_hcrcField (v : Word) (s : State) : (writeCtrlFields v s).hcrcField = s.hcrcField := rfl
@[simp] theorem writeCtrlFields_hcrcCalc (v : Word) (s : State) : (writeCtrlFields v s).hcrcCalc = s.hcrcCalc := rfl
@[simp] theorem writeCtrlFields_trlCrc (v : Word) (s : State) : (writeCtrlFields v s).trlCrc = s.trlCrc := rfl
@[simp] theorem writeCtrlFields_trlIsize (v : Word) (s : State) : (writeCtrlFields v s).trlIsize = s.trlIsize := rfl
@[simp] theorem writeCtrlFields_errCode (v : Word) (s : State) : (writeCtrlFields v s).errCode = s.errCode := rfl
@[simp] theorem writeCtrlFields_errDetail (v : Word) (s : State) : (writeCtrlFields v s).errDetail = s.errDetail := rfl
@[simp] theorem writeCtrlFields_errOrigin (v : Word) (s : State) : (writeCtrlFields v s).errOrigin = s.errOrigin := rfl
@[simp] theorem writeCtrlFields_warnHcrc (v : Word) (s : State) : (writeCtrlFields v s).warnHcrc = s.warnHcrc := rfl
@[simp] theorem writeCtrlFields_warnFlg (v : Word) (s : State) : (writeCtrlFields v s).warnFlg = s.warnFlg := rfl
@[simp] theorem writeCtrlFields_inBytes (v : Word) (s : State) : (writeCtrlFields v s).inBytes = s.inBytes := rfl
@[simp] theorem writeCtrlFields_inEnd (v : Word) (s : State) : (writeCtrlFields v s).inEnd = s.inEnd := rfl
@[simp] theorem writeCtrlFields_outBytes (v : Word) (s : State) : (writeCtrlFields v s).outBytes = s.outBytes := rfl
@[simp] theorem writeCtrlFields_outReady (v : Word) (s : State) : (writeCtrlFields v s).outReady = s.outReady := rfl
@[simp] theorem writeCtrlFields_regRdata (v : Word) (s : State) : (writeCtrlFields v s).regRdata = s.regRdata := rfl
@[simp] theorem writeCtrlFields_matchLen (v : Word) (s : State) : (writeCtrlFields v s).matchLen = s.matchLen := rfl
@[simp] theorem writeCtrlFields_inFlow (v : Word) (s : State) : (writeCtrlFields v s).inFlow = s.inFlow := rfl
@[simp] theorem writeCtrlFields_draws (v : Word) (s : State) : (writeCtrlFields v s).draws = s.draws := rfl
@[simp] theorem writeCtrlFields_wEpoch (v : Word) (s : State) : (writeCtrlFields v s).wEpoch = s.wEpoch := rfl
@[simp] theorem writeCtrlFields_agenda (v : Word) (s : State) : (writeCtrlFields v s).agenda = s.agenda := rfl

end Sys2Proof.Machine
end

