-- ==== Sys2Proof/Laws/Memory.lean ====
section
/-! SUPPORT. The laws of the window: a read after a write to the same address gives the byte written, a write leaves
every other address alone, and every operation keeps the canonical form. -/

namespace Sys2Proof.Machine

theorem lookup_write_same (m : Memory) (a : Nat) (b : Byte) : Memory.lookup (Memory.write m a b) a = some b := by
  induction m with
  | nil => simp [Memory.write, Memory.lookup]
  | cons p m ih =>
    obtain ⟨k, x⟩ := p
    simp only [Memory.write]
    split
    · simp [Memory.lookup]
    · split
      · simp [Memory.lookup]
      · simp [Memory.lookup, *]

theorem lookup_write_other (m : Memory) {a c : Nat} (b : Byte) (h : c ≠ a) :
    Memory.lookup (Memory.write m a b) c = Memory.lookup m c := by
  induction m with
  | nil => simp [Memory.write, Memory.lookup, h]
  | cons p m ih =>
    obtain ⟨k, x⟩ := p
    simp only [Memory.write]
    split
    · simp [Memory.lookup, h]
    · split
      · subst_vars; simp [Memory.lookup, h]
      · simp only [Memory.lookup, ih]

theorem mem_write {m : Memory} {a : Nat} {b : Byte} {p : Host.Cell} (h : p ∈ Memory.write m a b) :
    p = (a, b) ∨ p ∈ m := by
  induction m with
  | nil => simpa [Memory.write] using h
  | cons q m ih =>
    obtain ⟨k, x⟩ := q
    simp only [Memory.write] at h
    split at h
    · simpa using h
    · split at h
      · rcases List.mem_cons.mp h with h | h
        · exact .inl h
        · exact .inr (List.mem_cons_of_mem _ h)
      · rcases List.mem_cons.mp h with h | h
        · exact .inr (h ▸ List.mem_cons_self)
        · exact (ih h).imp_right (List.mem_cons_of_mem _)

theorem write_sorted {m : Memory} (a : Nat) (b : Byte) (h : m.Pairwise fun p q => p.1 < q.1) :
    (Memory.write m a b).Pairwise fun p q => p.1 < q.1 := by
  induction m with
  | nil => simp [Memory.write]
  | cons p m ih =>
    obtain ⟨k, x⟩ := p
    obtain ⟨hk, hm⟩ := List.pairwise_cons.mp h
    simp only [Memory.write]
    split
    · rename_i hlt
      refine List.pairwise_cons.mpr ⟨fun q hq => ?_, h⟩
      rcases List.mem_cons.mp hq with rfl | hq
      · exact hlt
      · exact lt_trans hlt (hk q hq)
    · split
      · subst_vars; exact List.pairwise_cons.mpr ⟨hk, hm⟩
      · refine List.pairwise_cons.mpr ⟨fun q hq => ?_, ih hm⟩
        rcases mem_write hq with rfl | hq
        · change k < a; omega
        · exact hk q hq

/-- A write inside the window keeps the canonical form. -/
theorem write_wf {m : Memory} {a : Nat} (b : Byte) (h : Memory.wf m) (ha : a < Config.windowSize) :
    Memory.wf (Memory.write m a b) :=
  ⟨write_sorted a b h.1, fun p hp => by
    rcases mem_write hp with rfl | hp
    · exact ha
    · exact h.2 p hp⟩

theorem reset_window_wf : Memory.wf State.reset.window := by decide

theorem windowIndex_lt (s : State) (k : BitVec 16) : windowIndex s k < Config.windowSize :=
  (s.wpos - k.setWidth 15).isLt

/-- The byte `k` behind a position stands at `wpos - k` modulo the window size (R553). -/
theorem windowIndex_eq (s : State) {k : BitVec 16} (hk : k.toNat ≤ 32768) :
    windowIndex s k = (s.wpos.toNat + 32768 - k.toNat) % 32768 := by
  have hw : s.wpos.toNat < 32768 := s.wpos.isLt
  simp only [windowIndex, BitVec.toNat_sub, BitVec.toNat_setWidth]
  omega

/-- What Emit leaves of a window byte (R550). -/
theorem windowRead_emit (b : Byte) (s : State) (a : Nat) :
    windowRead (emit b s) a = if a = s.wpos.toNat then b else windowRead s a := by
  unfold windowRead
  split
  · subst_vars; simp [lookup_write_same]
  · simp [lookup_write_other _ _ ‹_›]

theorem emit_window_wf {s : State} (b : Byte) (h : Memory.wf s.window) : Memory.wf (emit b s).window :=
  write_wf b h s.wpos.isLt

end Sys2Proof.Machine
end

