-- ==== Sys2Proof/Laws/Fetch.lean ====
section
/-! SUPPORT. What a fetch can do to a state: the position it leaves and the ways it ends. -/

namespace Sys2Proof.Machine

theorem cursorOf_fine {s : State} (h : LegalValues s) : (cursorOf s).Fine := h.bitpos

theorem elementStart_fine {s : State} (x : Expect) (h : LegalValues s) : (elementStart x (cursorOf s)).Fine := by
  cases x <;> first | exact cursorOf_fine h | exact ⟨show 1 ≤ (8 : BitVec 4).toNat by decide, show (8 : BitVec 4).toNat ≤ 8 by decide⟩

theorem elementStart_rest (x : Expect) (c : Cursor) : (elementStart x c).rest = c.rest := by cases x <;> rfl

theorem elementStart_bitbuf (x : Expect) (c : Cursor) : (elementStart x c).bitbuf = c.bitbuf := by cases x <;> rfl

/-- The bytes a fetch pulls are those between the two positions. -/
theorem pulledBytes_eq {s : State} {c : Cursor} {p : List Byte} (h : s.inBytes.drop s.ip = p ++ c.rest) :
    pulledBytes s c = p := by
  simp [pulledBytes, h]

/-- A position that the state's input and buffer agree with (R51, R302). -/
structure Placed (s : State) : Prop where
  bitpos : 1 ≤ s.bitpos.toNat ∧ s.bitpos.toNat ≤ 8
  ip : s.ip ≤ s.inBytes.length
  bitbuf : s.bitpos ≠ 8 → 1 ≤ s.ip ∧ s.inBytes[s.ip - 1]? = some s.bitbuf

theorem LegalValues.placed {s : State} (h : LegalValues s) : Placed s := ⟨h.bitpos, h.ip, h.bitbuf⟩

/-- Reading on keeps the position in agreement with the input (R51), and the input pulled is what was not yet pulled. -/
theorem advanceTo_placed {s : State} {x : Expect} {bs : List Bool} {c : Cursor} (h : Placed s)
    (hf : Follows bs (elementStart x (cursorOf s)) c) :
    Placed (advanceTo c s) ∧ s.inBytes.drop s.ip = pulledBytes s c ++ c.rest ∧
      s.inBytes.drop (s.ip + (pulledBytes s c).length) = c.rest := by
  obtain ⟨p, hp, -, hb⟩ := hf.pulled
  rw [elementStart_rest] at hp
  have hd : s.inBytes.drop s.ip = p ++ c.rest := hp
  have hpull := pulledBytes_eq hd
  have hlen : s.inBytes.length - s.ip = p.length + c.rest.length := by
    have := congrArg List.length hd
    simpa using this
  have hip := h.ip
  refine ⟨⟨hf.fine, ?_, ?_⟩, by rw [hpull, hd], ?_⟩
  · simp only [advanceTo_ip, advanceTo_inBytes, hpull]; omega
  · intro h8
    simp only [advanceTo_bitpos] at h8
    simp only [advanceTo_ip, advanceTo_inBytes, advanceTo_bitbuf, hpull]
    rcases hb with hb | ⟨rfl, hb, h0⟩ | hb
    · exact absurd hb h8
    · rw [elementStart_bitbuf] at hb
      have h0' : s.bitpos ≠ 8 := by
        intro e
        apply h0
        cases x <;> first | exact e | rfl
      simpa [hb, show (cursorOf s).bitbuf = s.bitbuf from rfl] using h.bitbuf h0'
    · have hne : p ≠ [] := fun e => by simp [e] at hb
      have hl : 1 ≤ p.length := List.length_pos_iff.mpr hne
      refine ⟨by omega, ?_⟩
      have : s.inBytes[s.ip + (p.length - 1)]? = (s.inBytes.drop s.ip)[p.length - 1]? := by simp
      rw [show s.ip + p.length - 1 = s.ip + (p.length - 1) by omega, this, hd, List.getElem?_append_left (by omega),
        ← List.getLast?_eq_getElem?, hb]
  · rw [hpull, ← List.drop_drop, hd]; simp

/-- The bits still to come after a fetch are those after the bits it took. -/
theorem advanceTo_cursor {s : State} {x : Expect} {bs : List Bool} {c : Cursor} (h : Placed s)
    (hf : Follows bs (elementStart x (cursorOf s)) c) : cursorOf (advanceTo c s) = c := by
  obtain ⟨-, -, hr⟩ := advanceTo_placed h hf
  simp only [cursorOf, advanceTo_bitbuf, advanceTo_bitpos, advanceTo_inBytes, advanceTo_ip, hr]

/-- What consuming an element's bits does to the state (R309): `Took` from the start of the element. -/
theorem took_advance {s : State} {x : Expect} {bs : List Bool} {c : Cursor} (h : Placed s)
    (hf : Follows bs (elementStart x (cursorOf s)) c) :
    Took bs (if x = .storedLen ∨ x = .trailer then { s with bitpos := 8 } else s) (advanceTo c s) := by
  have hcur := advanceTo_cursor h hf
  obtain ⟨-, hin, -⟩ := advanceTo_placed h hf
  obtain ⟨p, hp, hn, -⟩ := hf.pulled
  rw [elementStart_rest] at hp
  have hpull : pulledBytes s c = p := pulledBytes_eq hp
  have start : cursorOf (if x = .storedLen ∨ x = .trailer then { s with bitpos := 8 } else s) =
      elementStart x (cursorOf s) := by
    split
    · rename_i hx
      rcases hx with rfl | rfl <;> rfl
    · rename_i hx
      cases x <;> first | rfl | exact absurd (.inl rfl) hx | exact absurd (.inr rfl) hx
  refine ⟨?_, ?_, ?_, ?_⟩
  · split <;> rfl
  · rw [start, hcur]; exact hf.bits
  · have hbp : (if x = .storedLen ∨ x = .trailer then { s with bitpos := 8 } else s).bitpos = (elementStart x (cursorOf s)).bitpos := by
      rw [← start]; rfl
    have hip : (if x = .storedLen ∨ x = .trailer then { s with bitpos := 8 } else s).ip = s.ip := by split <;> rfl
    have hpos : 8 ≤ 8 * s.ip + (elementStart x (cursorOf s)).bitpos.toNat := by
      rw [← hbp]
      split
      · simp
      · by_cases h8 : s.bitpos = 8
        · simp [h8]
        · have := (h.bitbuf h8).1; omega
    unfold movedBits streamPos
    rw [hbp, hip]
    simp only [advanceTo_ip, advanceTo_bitpos, hpull]
    omega
  · have e1 : (if x = .storedLen ∨ x = .trailer then { s with bitpos := 8 } else s).phase = s.phase := by split <;> rfl
    have e2 : (if x = .storedLen ∨ x = .trailer then { s with bitpos := 8 } else s).inBytes = s.inBytes := by split <;> rfl
    have e3 : (if x = .storedLen ∨ x = .trailer then { s with bitpos := 8 } else s).ip = s.ip := by split <;> rfl
    have e4 : (if x = .storedLen ∨ x = .trailer then { s with bitpos := 8 } else s).hcrcAcc = s.hcrcAcc := by split <;> rfl
    rw [e1, e2, e3, e4]
    have : (s.inBytes.take (advanceTo c s).ip).drop s.ip = p := by
      have hip := h.ip
      simp only [advanceTo_ip, hpull]
      rw [List.drop_take, Nat.add_sub_cancel_left]
      have : s.inBytes.drop s.ip = p ++ c.rest := hp
      rw [this]; simp
    rw [this]
    simp only [advanceTo, hpull]
    cases s.phase <;> simp [headerCrcPhase]

/-- The bits taken between two positions. -/
theorem moved_bits_take {bs : List Bool} {c c' : Cursor} (h : Follows bs c c') :
    c.bits.take (c.bits.length - c'.bits.length) = bs := by
  rw [h.bits]; simp

/-- The ways a fetch can end. -/
inductive FetchSays (x : Expect) (s : State) : Fetched → Prop
  | got (is : List Instr) (bs : List Bool) (c : Cursor) (p : Spelled x is bs)
      (h : Follows bs (elementStart x (cursorOf s)) c) (hal : endsAligned x = true → c.bitpos = 8) :
      FetchSays x s (.got is (advanceTo c s))
  | illegal (e : Err) (k : Capture) (bs : List Bool) (c : Cursor) (p : MayRaise x e k)
      (h : Follows bs (elementStart x (cursorOf s)) c) : FetchSays x s (.raised (raise e (applyCapture k (advanceTo c s))))
  | ended (k : Capture) (bs : List Bool) (c : Cursor) (p : MayCapture x k)
      (h : Follows bs (elementStart x (cursorOf s)) c) (dry : c.Dry) (he : s.inEnd = true) :
      FetchSays x s (.raised (raise .unexpectedEndOfInput (applyCapture k (advanceTo c s))))
  | hold (he : s.inEnd = false) : FetchSays x s .hold

/-- What a fetch can do where its element may be read: at a byte boundary for an element of whole bytes (R308). It
never ends in a model fault. -/
theorem fetch_says {s : State} {x : Expect} (h : Placed s) (hb : byteElement x = true → s.bitpos = 8)
    (hn : x ≠ .dynCllens 0) : FetchSays x s (fetch x s) := by
  have hf : (elementStart x (cursorOf s)).Fine := by
    cases x <;> first | exact h.bitpos | exact ⟨show 1 ≤ (8 : BitVec 4).toNat by decide, show (8 : BitVec 4).toNat ≤ 8 by decide⟩
  have := decode_says x hf hb hn
  unfold fetch
  generalize decode x (cursorOf s) = d at this ⊢
  cases this with
  | elem is bs c p hf hal => exact .got is bs c p hf hal
  | illegal e k bs c p hf => exact .illegal e k bs c p hf
  | short k bs c p hf dry =>
    dsimp only
    split
    · exact .ended k bs c p hf dry ‹_›
    · rename_i he
      exact .hold (by simpa using he)

/-- The element a phase reads is of whole bytes exactly in the phases R308 names. -/
theorem byteElement_expected {s : State} {x : Expect} (h : expected s = some x) : byteElement x = bytePhase s.phase := by
  unfold expected at h
  cases hp : s.phase <;> simp [hp] at h <;> try (subst h; rfl)
  split at h <;> (obtain rfl := Option.some.inj h; rfl)

theorem expected_rest {s : State} : expected s = none ↔ restPhase s.phase = true ∨ s.phase = .copy := by
  unfold expected
  cases s.phase <;> simp [restPhase]
  split <;> simp

end Sys2Proof.Machine
end

