-- ==== Sys2Proof/Laws/Legal.lean ====
section
/-! SUPPORT. What each shared operation does to a legal state: reading on, raising, the end of a block, the next header
field, Emit, the code lengths and the start of a copy. One lemma an operation. -/

namespace Sys2Proof.Machine

set_option linter.unusedSimpArgs false

/-- Reading on keeps the legal values. -/
theorem legal_values_advance {s : State} (h : LegalValues s) {c : Cursor} (hp : Placed (advanceTo c s)) :
    LegalValues (advanceTo c s) :=
  { bitpos := hp.bitpos, ip := hp.ip, bitbuf := hp.bitbuf, window := h.window, hist := h.hist, copyLen := h.copyLen
    copyDist := h.copyDist, idx := h.idx, hlit := h.hlit, hdist := h.hdist, hclen := h.hclen, errCode := h.errCode
    errDetail := h.errDetail, matchLen := h.matchLen }

/-- Reading on does not touch the tables. -/
theorem dynTables_advance {s : State} {c : Cursor} (h : DynTables s) : DynTables (advanceTo c s) :=
  ⟨h.hlit, h.hdist, h.llFits, h.llEob, h.dFits⟩

/-- Reading on keeps a legal state, where the phases of whole bytes end at a byte boundary (R308). -/
theorem legal_advance {s : State} (h : Legal s) {c : Cursor} (hp : Placed (advanceTo c s)) (hr : s.phase ≠ .idle)
    (ha : bytePhase s.phase = true → c.bitpos = 8) : Legal (advanceTo c s) :=
  ⟨legal_values_advance h.values hp,
   { error := h.ready.error, aligned := ha, raw := h.ready.raw, extraPresent := h.ready.extraPresent
     namePresent := h.ready.namePresent, commentPresent := h.ready.commentPresent
     hcrcPresent := h.ready.hcrcPresent, hcrcUnread := h.ready.hcrcUnread, trlUnread := h.ready.trlUnread
     extraOwed := h.ready.extraOwed, storedOwed := h.ready.storedOwed, counts := h.ready.counts
     lengths := h.ready.lengths, tables := fun hp => (h.ready.tables hp).imp id dynTables_advance
     copying := h.ready.copying, final := h.ready.final, idle := fun e => absurd e hr }⟩

/-- A raise (R704) leaves a legal state where the captured fields are those of the framing mode. -/
theorem legal_raise {u : State} (e : Err) (hv : LegalValues u)
    (raw : u.modeRaw = true → hdr0Word u = 0 ∧ u.hdrMtime = 0 ∧ u.warnFlg = false ∧ u.trlCrc = 0 ∧ u.trlIsize = 0)
    (hcrc : u.hdrFlg.getLsbD 1 = false → u.hcrcField = 0 ∧ u.hcrcCalc = 0 ∧ u.warnHcrc = false) : Legal (raise e u) := by
  refine ⟨{ bitpos := hv.bitpos, ip := hv.ip, bitbuf := hv.bitbuf, window := hv.window, hist := hv.hist
            copyLen := hv.copyLen, copyDist := hv.copyDist, idx := hv.idx, hlit := hv.hlit, hdist := hv.hdist
            hclen := hv.hclen, matchLen := rfl, errCode := ?_, errDetail := ?_ }, ?_⟩
  · cases e <;> simp [raise, errorCode]
  · cases e with
    | corruptBlock d => cases d <;> simp [raise, errorCode, errorDetail, detailCode]
    | _ => simp [raise, errorCode, errorDetail]
  · have hc : errorCode e ≠ 0 := by cases e <;> simp [errorCode]
    have hp : (raise e u).phase = .error := rfl
    exact
      { error := ⟨fun h => absurd h hc, fun h => absurd rfl h⟩
        aligned := fun h => by simp [hp, bytePhase] at h
        raw := fun hm => ⟨rfl, by simp [hp], raw hm⟩
        extraPresent := fun h => by simp [hp] at h
        namePresent := fun h => by simp [hp] at h
        commentPresent := fun h => by simp [hp] at h
        hcrcPresent := fun h => by simp [hp] at h
        hcrcUnread := fun h => hcrc (by simpa [hp, headerPhase] using h)
        trlUnread := fun h => by simp [hp, restPhase] at h
        extraOwed := fun h => by simp [hp] at h
        storedOwed := fun h => by simp [hp] at h
        counts := fun h => by simp [hp] at h
        lengths := fun h => by simp [hp] at h
        tables := fun h => by simp [hp] at h
        copying := fun h => by simp [hp] at h
        final := fun h => by simp [hp] at h
        idle := fun h => by simp [hp] at h }

/-- A move to another phase that keeps everything but the fields the new phase looks at. -/
theorem legal_of_phase {s : State} {p : Phase} (h : Legal s) (hs : restPhase s.phase = false) (hp : p ≠ .error) (hi : p ≠ .idle) (ha : bytePhase p = true → s.bitpos = 8)
    (hraw : s.modeRaw = true → headerPhase p = false ∧ p ≠ .trailer)
    (hx : p = .gzXlen → s.hdrFlg.getLsbD 2 = true) (hn : p = .gzName → s.hdrFlg.getLsbD 3 = true)
    (hc : p = .gzComment → s.hdrFlg.getLsbD 4 = true) (hh : p = .gzHcrc → s.hdrFlg.getLsbD 1 = true)
    (hu : headerPhase p = true → headerPhase s.phase = true)
    (hsym : p = .symbol → s.tblFixed = true ∨ DynTables s)
    (hno : p ≠ .gzExtra ∧ p ≠ .storedCopy ∧ p ≠ .dynCllens ∧ p ≠ .dynLens ∧ p ≠ .copy)
    (hf : p = .trailer ∨ p = .done → s.bfinal = true) : Legal { s with phase := p } := by
  obtain ⟨n1, n2, n3, n4, n5⟩ := hno
  refine ⟨{ h.values with }, ?_⟩
  have herr : s.errCode = 0 := h.ready.error.mpr fun e => by simp [e, restPhase] at hs
  exact
      { error := ⟨fun _ => hp, fun _ => herr⟩
        aligned := ha
        raw := fun hm => ⟨(hraw hm).1, (hraw hm).2, (h.ready.raw hm).2.2⟩
        extraPresent := fun h => hx (h.resolve_right n1)
        namePresent := hn
        commentPresent := hc
        hcrcPresent := hh
        hcrcUnread := fun h' => h.ready.hcrcUnread (h'.imp id hu)
        trlUnread := fun _ => h.ready.trlUnread hs
        extraOwed := fun h => absurd h n1
        storedOwed := fun h => absurd h n2
        counts := fun h => absurd h (by simp [n3, n4])
        lengths := fun h => absurd h n4
        tables := fun h' => (hsym (h'.resolve_right n5)).imp id fun t => ⟨t.hlit, t.hdist, t.llFits, t.llEob, t.dFits⟩
        copying := fun h => absurd h n5
        final := hf
        idle := fun h => absurd h hi }

/-- The phases NextHeaderField selects, each with the FLG bit that selects it (R608). -/
theorem nextHeaderPhase_cases (a : HeaderField) (flg : Byte) :
    (nextHeaderPhase a flg = .gzXlen ∧ flg.getLsbD 2 = true ∧ a = .fixed) ∨ (nextHeaderPhase a flg = .gzName ∧ flg.getLsbD 3 = true) ∨
    (nextHeaderPhase a flg = .gzComment ∧ flg.getLsbD 4 = true) ∨ (nextHeaderPhase a flg = .gzHcrc ∧ flg.getLsbD 1 = true) ∨
    (nextHeaderPhase a flg = .blkHdr ∧ flg.getLsbD 1 = false) := by
  unfold nextHeaderPhase
  split_ifs <;> simp_all

/-- NextHeaderField (R608) from a header phase. -/
theorem legal_nextHeader {s : State} (h : Legal s) (a : HeaderField) (hs : headerPhase s.phase = true) (h8 : s.bitpos = 8) :
    Legal (nextHeaderField a s) := by
  have hraw : s.modeRaw = false := by
    by_contra hm
    have := (h.ready.raw (by simpa using hm)).1
    simp [this] at hs
  have hr : restPhase s.phase = false := by cases hp : s.phase <;> simp_all [headerPhase, restPhase]
  unfold nextHeaderField
  rcases nextHeaderPhase_cases a s.hdrFlg with ⟨e, hx⟩ | ⟨e, hx⟩ | ⟨e, hx⟩ | ⟨e, hx⟩ | ⟨e, hx⟩ <;> rw [e] <;>
    apply legal_of_phase h hr <;> simp_all [bytePhase, headerPhase]

/-- Capturing the fixed header (R600). -/
theorem legal_gzFixed {s : State} (h : Legal s) (hp : s.phase = .gzFixed) (h8 : s.bitpos = 8) (flg mt xfl os) (w : Bool) :
    Legal { s with hdrCm := 8, hdrFlg := flg, hdrMtime := mt, hdrXfl := xfl, hdrOs := os, warnFlg := w } := by
  have hraw : s.modeRaw = false := by
    by_contra hm
    have := (h.ready.raw (by simpa using hm)).1
    simp [hp, headerPhase] at this
  have hh := h.ready.hcrcUnread (.inr (by simp [hp, headerPhase]))
  refine ⟨{ h.values with }, ?_⟩
  have := h.ready
  constructor <;> simp_all [bytePhase, headerPhase, restPhase]
  · exact this.error.mpr (by simp [hp])
  · exact this.trlUnread (by simp [hp, restPhase])

/-- EndOfBlock (R357) from the phases that call it. -/
theorem legal_endOfBlock {s : State} (h : Legal s) (hs : s.phase = .storedLen ∨ s.phase = .storedCopy ∨ s.phase = .symbol) :
    Legal (endOfBlock s) := by
  have hr : restPhase s.phase = false := by rcases hs with h | h | h <;> simp [h, restPhase]
  by_cases hb : s.bfinal = true
  · by_cases hm : s.modeRaw = true
    · have h' : Legal { s with bitpos := 8 } := by
        refine ⟨{ h.values with bitpos := by simp, bitbuf := by simp }, ?_⟩
        exact { h.ready with aligned := by simp, tables := fun hp => (h.ready.tables hp).imp id fun t => ⟨t.hlit, t.hdist, t.llFits, t.llEob, t.dFits⟩, idle := fun e => by simp_all [restPhase] }
      rw [show endOfBlock s = { { s with bitpos := 8 } with phase := .done } from by simp [endOfBlock, endPhase, hb, hm]]
      apply legal_of_phase h' hr <;> simp_all [bytePhase, headerPhase]
    · rw [show endOfBlock s = { s with phase := .trailer } from by simp [endOfBlock, endPhase, hb, hm]]
      apply legal_of_phase h hr <;> simp_all [bytePhase, headerPhase]
  · rw [show endOfBlock s = { s with phase := .blkHdr } from by simp [endOfBlock, endPhase, hb]]
    apply legal_of_phase h hr <;> simp_all [bytePhase, headerPhase]

/-- Emit (R550). -/
theorem legal_emit {s : State} (b : Byte) (h : Legal s) (hi : s.phase ≠ .idle) : Legal (emit b s) := by
  have hh : (histNext s.hist).toNat = min (s.hist.toNat + 1) 32768 := by
    have := h.values.hist
    unfold histNext Config.windowSize
    split
    · rw [BitVec.toNat_add]; simp; omega
    · simp; omega
  refine ⟨{ h.values with window := emit_window_wf b h.values.window, hist := by change (histNext s.hist).toNat ≤ _; omega }, ?_⟩
  exact { h.ready with
    tables := fun hp => (h.ready.tables hp).imp id fun t => ⟨t.hlit, t.hdist, t.llFits, t.llEob, t.dFits⟩
    copying := fun hp => by
      obtain ⟨a, b', c⟩ := h.ready.copying hp
      refine ⟨a, b', ?_⟩
      change _ ≤ (histNext s.hist).toNat
      have : s.copyDist.toNat ≤ s.hist.toNat := c
      have := h.values.hist
      change s.copyDist.toNat ≤ _
      omega
    idle := fun e => absurd e hi }

/-- A raise (R704) from a legal state. -/
theorem legal_raise_running {s : State} (e : Err) (h : Legal s) : Legal (raise e s) :=
  legal_raise e h.values (fun hm => (h.ready.raw hm).2.2) fun hf => h.ready.hcrcUnread (.inl hf)

/-- The end of a DYN_LENS step (R422, R427), with the lengths defined so far. -/
theorem legal_lens {s : State} (h : Legal s) (hp : s.phase = .dynLens) (l : Vector (BitVec 4) 316) (i : BitVec 9) (hi : i.toNat ≤ lensTotal s) :
    Legal (finishLens { s with lens := l, idx := i }) := by
  obtain ⟨h1, h2⟩ := h.ready.lengths hp
  obtain ⟨c1, c2, c3⟩ := h.ready.counts (.inr hp)
  have ht : lensTotal s ≤ 316 := by unfold lensTotal; omega
  have hv : LegalValues { s with lens := l, idx := i } := { h.values with idx := by change i.toNat ≤ 316; omega }
  unfold finishLens
  split
  · have hr : ∀ d, Legal (raiseCorrupt d { s with lens := l, idx := i }) := fun d => by
      unfold raiseCorrupt
      exact legal_raise _ hv (fun hm => (h.ready.raw hm).2.2) fun hf => h.ready.hcrcUnread (.inl hf)
    unfold completeTables
    split
    · exact hr _
    split
    · exact hr _
    split
    · exact hr _
    rename_i a b c
    refine ⟨{ hv with }, ?_⟩
    have h0 : Legal { s with lens := l, idx := i, tblFixed := false, phase := .symbol } := by
      refine ⟨{ hv with }, ?_⟩
      exact { h.ready with
        error := ⟨by simp, fun _ => h.ready.error.mpr (by simp [hp])⟩
        aligned := by simp [bytePhase]
        raw := fun hm => ⟨rfl, by simp, (h.ready.raw hm).2.2⟩
        extraPresent := by simp
        namePresent := by simp
        commentPresent := by simp
        hcrcPresent := by simp
        hcrcUnread := fun h' => h.ready.hcrcUnread (.inl (by simpa [headerPhase] using h'))
        trlUnread := fun _ => h.ready.trlUnread (by simp [hp, restPhase])
        extraOwed := by simp
        storedOwed := by simp
        counts := by simp
        lengths := by simp
        tables := fun _ => .inr ⟨c1, c2, Bool.eq_false_of_not_eq_true a, b, Bool.eq_false_of_not_eq_true c⟩
        copying := by simp
        final := by simp
        idle := by simp }
    exact h0.ready
  · rename_i hne
    refine ⟨hv, ?_⟩
    exact { h.ready with
      lengths := fun _ => ⟨by
        have : lensTotal { s with lens := l, idx := i } = lensTotal s := rfl
        rw [this] at hne ⊢
        change i.toNat ≠ _ at hne
        change i.toNat < _
        omega, h2⟩
      tables := fun e => by simp [hp] at e
      idle := fun e => by simp [hp] at e }

/-- One code length (R423). -/
theorem legal_defineLen {s : State} (h : Legal s) (hp : s.phase = .dynLens) (v : BitVec 4) : Legal (defineLen v s) := by
  obtain ⟨h1, h2⟩ := h.ready.lengths hp
  obtain ⟨c1, c2, c3⟩ := h.ready.counts (.inr hp)
  have ht : lensTotal s ≤ 316 := by unfold lensTotal; omega
  apply legal_lens h hp
  rw [BitVec.toNat_add]; simp; omega

/-- A run of code lengths (R424 to R426). -/
theorem legal_defineRun {s : State} (h : Legal s) (hp : s.phase = .dynLens) (r v) : Legal (defineRun r v s) := by
  obtain ⟨h1, h2⟩ := h.ready.lengths hp
  obtain ⟨c1, c2, c3⟩ := h.ready.counts (.inr hp)
  have ht : lensTotal s ≤ 316 := by unfold lensTotal; omega
  unfold defineRun
  split
  · exact legal_raise_running _ h
  · apply legal_lens h hp
    rw [BitVec.toNat_ofNat]; omega

/-- A raise with the fields captured before it (R18, R705). -/
theorem legal_capture {s : State} (h : Legal s) {x : Expect} (hx : expected s = some x) (e : Err) (k : Capture)
    (hk : (∃ e', MayRaise x e' k) ∨ MayCapture x k) {c : Cursor} (hp : Placed (advanceTo c s)) :
    Legal (raise e (applyCapture k (advanceTo c s))) := by
  have hv := legal_values_advance h.values hp
  have base : Legal (raise e (advanceTo c s)) := legal_raise e hv (fun hm => (h.ready.raw hm).2.2) fun hf => h.ready.hcrcUnread (.inl hf)
  have hdr : s.phase = .gzFixed → ∀ cm flg mt xfl, Legal (raise e { advanceTo c s with hdrCm := cm, hdrFlg := flg, hdrMtime := mt, hdrXfl := xfl }) := by
    intro hp cm flg mt xfl
    have hraw : s.modeRaw = false := by
      by_contra hm
      have := (h.ready.raw (by simpa using hm)).1
      simp [hp, headerPhase] at this
    have hh := h.ready.hcrcUnread (.inr (by simp [hp, headerPhase]))
    exact legal_raise e { hv with } (fun hm => by simp_all) fun hf => hh
  cases k with
  | nothing => exact base
  | hdrCm cm =>
    refine hdr ?_ cm s.hdrFlg s.hdrMtime s.hdrXfl
    cases hph : s.phase <;> simp [expected, hph] at hx <;> (try subst hx) <;> simp [MayRaise, MayCapture] at hk ⊢
    split at hx <;> (cases hx; simp [MayRaise, MayCapture] at hk)
  | hdrFlg flg =>
    refine hdr ?_ 8 flg s.hdrMtime s.hdrXfl
    cases hph : s.phase <;> simp [expected, hph] at hx <;> (try subst hx) <;> simp [MayRaise, MayCapture] at hk ⊢
    split at hx <;> (cases hx; simp [MayRaise, MayCapture] at hk)
  | hdrMtime flg mt =>
    refine hdr ?_ 8 flg mt s.hdrXfl
    cases hph : s.phase <;> simp [expected, hph] at hx <;> (try subst hx) <;> simp [MayRaise, MayCapture] at hk ⊢
    split at hx <;> (cases hx; simp [MayRaise, MayCapture] at hk)
  | hdrXfl flg mt xfl =>
    refine hdr ?_ 8 flg mt xfl
    cases hph : s.phase <;> simp [expected, hph] at hx <;> (try subst hx) <;> simp [MayRaise, MayCapture] at hk ⊢
    split at hx <;> (cases hx; simp [MayRaise, MayCapture] at hk)
  | hlit hl =>
    refine legal_raise e { hv with hlit := .inr ?_ } (fun hm => (h.ready.raw hm).2.2) fun hf => h.ready.hcrcUnread (.inl hf)
    change 257 ≤ (hlitCount hl).toNat ∧ (hlitCount hl).toNat ≤ 288
    clear hk; revert hl; decide
  | hdist hl hd =>
    refine legal_raise e { hv with hlit := .inr ?_, hdist := ?_ } (fun hm => (h.ready.raw hm).2.2) fun hf => h.ready.hcrcUnread (.inl hf)
    · change 257 ≤ (hlitCount hl).toNat ∧ (hlitCount hl).toNat ≤ 288
      clear hk
      revert hl; decide
    · change (hdistCount hd).toNat ≤ 32
      clear hk
      revert hd; decide
  | clLens cll =>
    exact legal_raise e { hv with } (fun hm => (h.ready.raw hm).2.2) fun hf => h.ready.hcrcUnread (.inl hf)
  | trlCrc crc =>
    have hph : s.phase = .trailer := by
      cases hph : s.phase <;> simp [expected, hph] at hx <;> (try subst hx) <;> simp [MayRaise, MayCapture] at hk ⊢
      split at hx <;> (cases hx; simp [MayRaise, MayCapture] at hk)
    exact legal_raise e { hv with } (fun hm => absurd hph (h.ready.raw hm).2.1) fun hf => h.ready.hcrcUnread (.inl hf)

/-- The state after an element is read, before its meaning runs. -/
theorem legal_got {s : State} (h : Legal s) {x : Expect} (hx : expected s = some x) {bs c}
    (hf : Follows bs (elementStart x (cursorOf s)) c) (hal : endsAligned x = true → c.bitpos = 8) : Legal (advanceTo c s) := by
  refine legal_advance h (advanceTo_placed h.values.placed hf).1 (fun e => by simp [expected, e] at hx) fun hb => ?_
  refine hal ?_
  rw [← byteElement_expected hx] at hb
  cases x <;> simp_all [endsAligned, byteElement]

/-- The tail of LenDist (R453). -/
theorem legal_startCopy {s : State} (h : Legal s) (hp : s.phase = .symbol) (len : BitVec 9) (dist : Nat) (hl : 1 ≤ len.toNat ∧ len.toNat ≤ 258)
   (hd : 1 ≤ dist) : Legal (startCopy len dist { s with matchLen := some len }) := by
  have hh := h.values.hist
  unfold startCopy
  split
  · have := legal_raise_running .windowUnderflow h
    exact this
  · rename_i hlt
    have hle : dist ≤ s.hist.toNat := by change ¬ s.hist.toNat < dist at hlt; omega
    have hdn : (BitVec.ofNat 16 dist).toNat = dist := by simp; omega
    have h0 : Legal { s with copyLen := len, copyDist := BitVec.ofNat 16 dist, phase := .copy } := by
      refine ⟨{ h.values with copyLen := hl.2, copyDist := by change (BitVec.ofNat 16 dist).toNat ≤ _; omega }, ?_⟩
      exact { h.ready with
        error := ⟨by simp, fun _ => h.ready.error.mpr (by simp [hp])⟩
        aligned := by simp [bytePhase]
        raw := fun hm => ⟨rfl, by simp, (h.ready.raw hm).2.2⟩
        extraPresent := by simp
        namePresent := by simp
        commentPresent := by simp
        hcrcPresent := by simp
        hcrcUnread := fun h' => h.ready.hcrcUnread (.inl (by simpa [headerPhase] using h'))
        trlUnread := fun _ => h.ready.trlUnread (by simp [hp, restPhase])
        extraOwed := by simp
        storedOwed := by simp
        counts := by simp
        lengths := by simp
        tables := fun _ => (h.ready.tables (.inl hp)).imp id fun t => ⟨t.hlit, t.hdist, t.llFits, t.llEob, t.dFits⟩
        copying := fun _ => ⟨hl.1, by change 1 ≤ (BitVec.ofNat 16 dist).toNat; omega, by change (BitVec.ofNat 16 dist).toNat ≤ s.hist.toNat; omega⟩
        final := by simp
        idle := by simp }
    have e : s.matchLen = none := h.values.matchLen
    convert h0 using 1
    simp [e]

end Sys2Proof.Machine
end

