-- ==== Sys2Proof/Laws/PerInstr.lean ====
section
/-! SUPPORT. The statements made for every instruction, one lemma a constructor. -/

/-- The row of the opcode table is the instruction's own: its selecting value matches the row under the row's mask, and
the match value lies inside the mask (R242). -/
def Sys2Proof.Laws.RowOfTable.Statement (i : Sys2Proof.Instr) : Prop :=
  i.wf = true → i.selector &&& i.tableRow.1 = i.tableRow.2 ∧ i.tableRow.2 &&& i.tableRow.1 = i.tableRow.2

namespace Sys2Proof.Laws.RowOfTable

/-- The row of an instruction with a fixed selecting value. -/
theorem row_of {i : Instr} (s m k : Nat) (hs : i.selector = s) (hr : i.tableRow = (m, k)) (h : s.land m = k)
    (h' : k.land m = k) : i.selector &&& i.tableRow.1 = i.tableRow.2 ∧ i.tableRow.2 &&& i.tableRow.1 = i.tableRow.2 := by
  rw [hs, hr]; exact ⟨h, h'⟩

theorem gzFixed (flg : BitVec 8) (mtime : BitVec 32) (xfl : BitVec 8) (os : BitVec 8) : Statement (.gzFixed flg mtime xfl os) := fun _ =>
  row_of 0x088B1F 0xFFFFFF 0x88B1F rfl rfl rfl rfl

theorem gzXlen (xlen : BitVec 16) : Statement (.gzXlen xlen) := fun _ =>
  row_of 0 0 0 rfl rfl rfl rfl

theorem gzExtra (b : BitVec 8) : Statement (.gzExtra b) := fun _ =>
  row_of 0 0 0 rfl rfl rfl rfl

theorem gzName (b : BitVec 8) : Statement (.gzName b) := fun _ =>
  row_of 0 0 0 rfl rfl rfl rfl

theorem gzComment (b : BitVec 8) : Statement (.gzComment b) := fun _ =>
  row_of 0 0 0 rfl rfl rfl rfl

theorem gzHcrc (h : BitVec 16) : Statement (.gzHcrc h) := fun _ =>
  row_of 0 0 0 rfl rfl rfl rfl

theorem blkStored (bfinal : Bool) : Statement (.blkStored bfinal) := by
  cases bfinal <;> simp [Statement, Instr.selector, Instr.tableRow]

theorem blkFixed (bfinal : Bool) : Statement (.blkFixed bfinal) := by
  cases bfinal <;> simp [Statement, Instr.selector, Instr.tableRow]

theorem blkDynamic (bfinal : Bool) : Statement (.blkDynamic bfinal) := by
  cases bfinal <;> simp [Statement, Instr.selector, Instr.tableRow]

theorem blkReserved (bfinal : Bool) : Statement (.blkReserved bfinal) := by
  cases bfinal <;> simp [Statement, Instr.selector, Instr.tableRow]

theorem storedLen (len : BitVec 16) (nlen : BitVec 16) : Statement (.storedLen len nlen) := fun _ =>
  row_of 0 0 0 rfl rfl rfl rfl

theorem storedCopy (b : BitVec 8) : Statement (.storedCopy b) := fun _ =>
  row_of 0 0 0 rfl rfl rfl rfl

theorem dynHdr (hlit : BitVec 5) (hdist : BitVec 5) (hclen : BitVec 4) : Statement (.dynHdr hlit hdist hclen) := fun _ =>
  row_of 0 0 0 rfl rfl rfl rfl

theorem dynCllens (cll : List (BitVec 3)) : Statement (.dynCllens cll) := fun _ =>
  row_of 0 0 0 rfl rfl rfl rfl

theorem cl0 : Statement .cl0 := fun _ =>
  row_of 0 0x1F 0x0 rfl rfl rfl rfl

theorem cl1 : Statement .cl1 := fun _ =>
  row_of 1 0x1F 0x1 rfl rfl rfl rfl

theorem cl2 : Statement .cl2 := fun _ =>
  row_of 2 0x1F 0x2 rfl rfl rfl rfl

theorem cl3 : Statement .cl3 := fun _ =>
  row_of 3 0x1F 0x3 rfl rfl rfl rfl

theorem cl4 : Statement .cl4 := fun _ =>
  row_of 4 0x1F 0x4 rfl rfl rfl rfl

theorem cl5 : Statement .cl5 := fun _ =>
  row_of 5 0x1F 0x5 rfl rfl rfl rfl

theorem cl6 : Statement .cl6 := fun _ =>
  row_of 6 0x1F 0x6 rfl rfl rfl rfl

theorem cl7 : Statement .cl7 := fun _ =>
  row_of 7 0x1F 0x7 rfl rfl rfl rfl

theorem cl8 : Statement .cl8 := fun _ =>
  row_of 8 0x1F 0x8 rfl rfl rfl rfl

theorem cl9 : Statement .cl9 := fun _ =>
  row_of 9 0x1F 0x9 rfl rfl rfl rfl

theorem cl10 : Statement .cl10 := fun _ =>
  row_of 10 0x1F 0xA rfl rfl rfl rfl

theorem cl11 : Statement .cl11 := fun _ =>
  row_of 11 0x1F 0xB rfl rfl rfl rfl

theorem cl12 : Statement .cl12 := fun _ =>
  row_of 12 0x1F 0xC rfl rfl rfl rfl

theorem cl13 : Statement .cl13 := fun _ =>
  row_of 13 0x1F 0xD rfl rfl rfl rfl

theorem cl14 : Statement .cl14 := fun _ =>
  row_of 14 0x1F 0xE rfl rfl rfl rfl

theorem cl15 : Statement .cl15 := fun _ =>
  row_of 15 0x1F 0xF rfl rfl rfl rfl

theorem cl16 (rep : BitVec 2) : Statement (.cl16 rep) := fun _ =>
  row_of 16 0x1F 0x10 rfl rfl rfl rfl

theorem cl17 (rep : BitVec 3) : Statement (.cl17 rep) := fun _ =>
  row_of 17 0x1F 0x11 rfl rfl rfl rfl

theorem cl18 (rep : BitVec 7) : Statement (.cl18 rep) := fun _ =>
  row_of 18 0x1F 0x12 rfl rfl rfl rfl

theorem lit (b : BitVec 8) : Statement (.lit b) := by
  have := b.isLt
  refine fun _ => ⟨?_, by simp [Instr.tableRow]⟩
  change b.toNat &&& 2 ^ 8 = 0
  refine Nat.eq_of_testBit_eq fun k => ?_
  rw [Nat.testBit_and, Nat.testBit_two_pow, Nat.zero_testBit]
  by_cases hk : 8 = k
  · subst hk; rw [Nat.testBit_lt_two_pow (by omega)]; rfl
  · simp [hk]

theorem eob : Statement .eob := fun _ =>
  row_of 256 0x1FF 0x100 rfl rfl rfl rfl

theorem len257 : Statement .len257 := fun _ =>
  row_of 257 0x1FF 0x101 rfl rfl rfl rfl

theorem len258 : Statement .len258 := fun _ =>
  row_of 258 0x1FF 0x102 rfl rfl rfl rfl

theorem len259 : Statement .len259 := fun _ =>
  row_of 259 0x1FF 0x103 rfl rfl rfl rfl

theorem len260 : Statement .len260 := fun _ =>
  row_of 260 0x1FF 0x104 rfl rfl rfl rfl

theorem len261 : Statement .len261 := fun _ =>
  row_of 261 0x1FF 0x105 rfl rfl rfl rfl

theorem len262 : Statement .len262 := fun _ =>
  row_of 262 0x1FF 0x106 rfl rfl rfl rfl

theorem len263 : Statement .len263 := fun _ =>
  row_of 263 0x1FF 0x107 rfl rfl rfl rfl

theorem len264 : Statement .len264 := fun _ =>
  row_of 264 0x1FF 0x108 rfl rfl rfl rfl

theorem len265 (lx : BitVec 1) : Statement (.len265 lx) := fun _ =>
  row_of 265 0x1FF 0x109 rfl rfl rfl rfl

theorem len266 (lx : BitVec 1) : Statement (.len266 lx) := fun _ =>
  row_of 266 0x1FF 0x10A rfl rfl rfl rfl

theorem len267 (lx : BitVec 1) : Statement (.len267 lx) := fun _ =>
  row_of 267 0x1FF 0x10B rfl rfl rfl rfl

theorem len268 (lx : BitVec 1) : Statement (.len268 lx) := fun _ =>
  row_of 268 0x1FF 0x10C rfl rfl rfl rfl

theorem len269 (lx : BitVec 2) : Statement (.len269 lx) := fun _ =>
  row_of 269 0x1FF 0x10D rfl rfl rfl rfl

theorem len270 (lx : BitVec 2) : Statement (.len270 lx) := fun _ =>
  row_of 270 0x1FF 0x10E rfl rfl rfl rfl

theorem len271 (lx : BitVec 2) : Statement (.len271 lx) := fun _ =>
  row_of 271 0x1FF 0x10F rfl rfl rfl rfl

theorem len272 (lx : BitVec 2) : Statement (.len272 lx) := fun _ =>
  row_of 272 0x1FF 0x110 rfl rfl rfl rfl

theorem len273 (lx : BitVec 3) : Statement (.len273 lx) := fun _ =>
  row_of 273 0x1FF 0x111 rfl rfl rfl rfl

theorem len274 (lx : BitVec 3) : Statement (.len274 lx) := fun _ =>
  row_of 274 0x1FF 0x112 rfl rfl rfl rfl

theorem len275 (lx : BitVec 3) : Statement (.len275 lx) := fun _ =>
  row_of 275 0x1FF 0x113 rfl rfl rfl rfl

theorem len276 (lx : BitVec 3) : Statement (.len276 lx) := fun _ =>
  row_of 276 0x1FF 0x114 rfl rfl rfl rfl

theorem len277 (lx : BitVec 4) : Statement (.len277 lx) := fun _ =>
  row_of 277 0x1FF 0x115 rfl rfl rfl rfl

theorem len278 (lx : BitVec 4) : Statement (.len278 lx) := fun _ =>
  row_of 278 0x1FF 0x116 rfl rfl rfl rfl

theorem len279 (lx : BitVec 4) : Statement (.len279 lx) := fun _ =>
  row_of 279 0x1FF 0x117 rfl rfl rfl rfl

theorem len280 (lx : BitVec 4) : Statement (.len280 lx) := fun _ =>
  row_of 280 0x1FF 0x118 rfl rfl rfl rfl

theorem len281 (lx : BitVec 5) : Statement (.len281 lx) := fun _ =>
  row_of 281 0x1FF 0x119 rfl rfl rfl rfl

theorem len282 (lx : BitVec 5) : Statement (.len282 lx) := fun _ =>
  row_of 282 0x1FF 0x11A rfl rfl rfl rfl

theorem len283 (lx : BitVec 5) : Statement (.len283 lx) := fun _ =>
  row_of 283 0x1FF 0x11B rfl rfl rfl rfl

theorem len284 (lx : BitVec 5) : Statement (.len284 lx) := fun _ =>
  row_of 284 0x1FF 0x11C rfl rfl rfl rfl

theorem len285 : Statement .len285 := fun _ =>
  row_of 285 0x1FF 0x11D rfl rfl rfl rfl

theorem ll286 : Statement .ll286 := fun _ =>
  row_of 286 0x1FF 0x11E rfl rfl rfl rfl

theorem ll287 : Statement .ll287 := fun _ =>
  row_of 287 0x1FF 0x11F rfl rfl rfl rfl

theorem dist0 : Statement .dist0 := fun _ =>
  row_of 0 0x1F 0x0 rfl rfl rfl rfl

theorem dist1 : Statement .dist1 := fun _ =>
  row_of 1 0x1F 0x1 rfl rfl rfl rfl

theorem dist2 : Statement .dist2 := fun _ =>
  row_of 2 0x1F 0x2 rfl rfl rfl rfl

theorem dist3 : Statement .dist3 := fun _ =>
  row_of 3 0x1F 0x3 rfl rfl rfl rfl

theorem dist4 (dx : BitVec 1) : Statement (.dist4 dx) := fun _ =>
  row_of 4 0x1F 0x4 rfl rfl rfl rfl

theorem dist5 (dx : BitVec 1) : Statement (.dist5 dx) := fun _ =>
  row_of 5 0x1F 0x5 rfl rfl rfl rfl

theorem dist6 (dx : BitVec 2) : Statement (.dist6 dx) := fun _ =>
  row_of 6 0x1F 0x6 rfl rfl rfl rfl

theorem dist7 (dx : BitVec 2) : Statement (.dist7 dx) := fun _ =>
  row_of 7 0x1F 0x7 rfl rfl rfl rfl

theorem dist8 (dx : BitVec 3) : Statement (.dist8 dx) := fun _ =>
  row_of 8 0x1F 0x8 rfl rfl rfl rfl

theorem dist9 (dx : BitVec 3) : Statement (.dist9 dx) := fun _ =>
  row_of 9 0x1F 0x9 rfl rfl rfl rfl

theorem dist10 (dx : BitVec 4) : Statement (.dist10 dx) := fun _ =>
  row_of 10 0x1F 0xA rfl rfl rfl rfl

theorem dist11 (dx : BitVec 4) : Statement (.dist11 dx) := fun _ =>
  row_of 11 0x1F 0xB rfl rfl rfl rfl

theorem dist12 (dx : BitVec 5) : Statement (.dist12 dx) := fun _ =>
  row_of 12 0x1F 0xC rfl rfl rfl rfl

theorem dist13 (dx : BitVec 5) : Statement (.dist13 dx) := fun _ =>
  row_of 13 0x1F 0xD rfl rfl rfl rfl

theorem dist14 (dx : BitVec 6) : Statement (.dist14 dx) := fun _ =>
  row_of 14 0x1F 0xE rfl rfl rfl rfl

theorem dist15 (dx : BitVec 6) : Statement (.dist15 dx) := fun _ =>
  row_of 15 0x1F 0xF rfl rfl rfl rfl

theorem dist16 (dx : BitVec 7) : Statement (.dist16 dx) := fun _ =>
  row_of 16 0x1F 0x10 rfl rfl rfl rfl

theorem dist17 (dx : BitVec 7) : Statement (.dist17 dx) := fun _ =>
  row_of 17 0x1F 0x11 rfl rfl rfl rfl

theorem dist18 (dx : BitVec 8) : Statement (.dist18 dx) := fun _ =>
  row_of 18 0x1F 0x12 rfl rfl rfl rfl

theorem dist19 (dx : BitVec 8) : Statement (.dist19 dx) := fun _ =>
  row_of 19 0x1F 0x13 rfl rfl rfl rfl

theorem dist20 (dx : BitVec 9) : Statement (.dist20 dx) := fun _ =>
  row_of 20 0x1F 0x14 rfl rfl rfl rfl

theorem dist21 (dx : BitVec 9) : Statement (.dist21 dx) := fun _ =>
  row_of 21 0x1F 0x15 rfl rfl rfl rfl

theorem dist22 (dx : BitVec 10) : Statement (.dist22 dx) := fun _ =>
  row_of 22 0x1F 0x16 rfl rfl rfl rfl

theorem dist23 (dx : BitVec 10) : Statement (.dist23 dx) := fun _ =>
  row_of 23 0x1F 0x17 rfl rfl rfl rfl

theorem dist24 (dx : BitVec 11) : Statement (.dist24 dx) := fun _ =>
  row_of 24 0x1F 0x18 rfl rfl rfl rfl

theorem dist25 (dx : BitVec 11) : Statement (.dist25 dx) := fun _ =>
  row_of 25 0x1F 0x19 rfl rfl rfl rfl

theorem dist26 (dx : BitVec 12) : Statement (.dist26 dx) := fun _ =>
  row_of 26 0x1F 0x1A rfl rfl rfl rfl

theorem dist27 (dx : BitVec 12) : Statement (.dist27 dx) := fun _ =>
  row_of 27 0x1F 0x1B rfl rfl rfl rfl

theorem dist28 (dx : BitVec 13) : Statement (.dist28 dx) := fun _ =>
  row_of 28 0x1F 0x1C rfl rfl rfl rfl

theorem dist29 (dx : BitVec 13) : Statement (.dist29 dx) := fun _ =>
  row_of 29 0x1F 0x1D rfl rfl rfl rfl

theorem d30 : Statement .d30 := fun _ =>
  row_of 30 0x1F 0x1E rfl rfl rfl rfl

theorem d31 : Statement .d31 := fun _ =>
  row_of 31 0x1F 0x1F rfl rfl rfl rfl

theorem gzTrailer (crc : BitVec 32) (isize : BitVec 32) : Statement (.gzTrailer crc isize) := fun _ =>
  row_of 0 0 0 rfl rfl rfl rfl

theorem start (v : BitVec 32) : Statement (.start v) := by
  intro h
  have hb : v.toNat.testBit 0 = true := by
    simp only [Instr.wf, Bool.and_eq_true] at h
    exact h.1
  refine ⟨?_, by simp [Instr.tableRow]⟩
  change v.toNat &&& 2 ^ 0 = 2 ^ 0
  refine Nat.eq_of_testBit_eq fun k => ?_
  rw [Nat.testBit_and, Nat.testBit_two_pow]
  by_cases hk : 0 = k
  · subst hk; rw [hb]; rfl
  · simp [hk]

theorem softReset (v : BitVec 32) : Statement (.softReset v) := by
  intro h
  have hb : v.toNat.testBit 1 = true := by
    simp only [Instr.wf] at h
    exact h
  refine ⟨?_, by simp [Instr.tableRow]⟩
  change v.toNat &&& 2 ^ 1 = 2 ^ 1
  refine Nat.eq_of_testBit_eq fun k => ?_
  rw [Nat.testBit_and, Nat.testBit_two_pow]
  by_cases hk : 1 = k
  · subst hk; rw [hb]; rfl
  · simp [hk]

theorem regWrite (off : BitVec 6) (v : BitVec 32) : Statement (.regWrite off v) := fun _ =>
  row_of 0 0 0 rfl rfl rfl rfl

theorem regRead (off : BitVec 6) : Statement (.regRead off) := fun _ =>
  row_of 0 0 0 rfl rfl rfl rfl

theorem pushByte (b : BitVec 8) : Statement (.pushByte b) := fun _ =>
  row_of 0 0 0 rfl rfl rfl rfl

theorem endInput : Statement .endInput := fun _ =>
  row_of 0 0 0 rfl rfl rfl rfl

theorem outAccept : Statement .outAccept := fun _ =>
  row_of 0 0 0 rfl rfl rfl rfl

theorem hardReset : Statement .hardReset := fun _ =>
  row_of 0 0 0 rfl rfl rfl rfl

end Sys2Proof.Laws.RowOfTable
end

