-- ==== Sys2Proof/Laws/Symbols.lean ====
section
/-! SUPPORT. What the length and distance symbols do, by the length and the distance they stand for, and how Emit keeps
the accounts. -/

namespace Sys2Proof.Machine

set_option linter.unusedTactic false
set_option linter.unreachableTactic false

/-- A length symbol leaves its match length, 3 to 258 (R213, R453). -/
theorem length_symbol_exec (i : Instr) (n : Nat) (h : matchLengthOf i = some n) : (3 ≤ n ∧ n ≤ 258) ∧ ∀ t, exec i t = .next { t with matchLen := some (BitVec.ofNat 9 n) } := by
  cases i <;> simp [matchLengthOf, Instr.format, Instr.selector, Instr.operandBits, lengthBase, bitsValue_fieldBits, bitsValue] at h
  case lit b => have := b.isLt; omega
  all_goals subst h
  all_goals refine ⟨?_, fun t => rfl⟩
  all_goals first | omega | (rename_i x; have := x.isLt; omega)

/-- A distance symbol, 1 to 32768, acts on the match length of the same step (R213, R453). -/
theorem distance_symbol_exec (j : Instr) (d : Nat) (h : matchDistanceOf j = some d) : (1 ≤ d ∧ d ≤ 32768) ∧ ∀ t len, t.matchLen = some len → exec j t = .next (startCopy len d t) := by
  cases j <;> simp [matchDistanceOf, Instr.format, Instr.selector, Instr.operandBits, distBase, bitsValue_fieldBits, bitsValue] at h <;> subst h
  all_goals refine ⟨?_, fun t len ht => by simp [exec, execDist0, execDist1, execDist2, execDist3, execDist4, execDist5, execDist6, execDist7, execDist8, execDist9, execDist10, execDist11, execDist12, execDist13, execDist14, execDist15, execDist16, execDist17, execDist18, execDist19, execDist20, execDist21, execDist22, execDist23, execDist24, execDist25, execDist26, execDist27, execDist28, execDist29, finishMatch, ht, matchDistance]⟩
  all_goals first | omega | (rename_i x; have := x.isLt; omega)

/-- Nothing the accounts are about has changed. -/
structure Quiet (s t : State) : Prop where
  out : t.outBytes = s.outBytes
  isize : t.isize = s.isize
  hist : t.hist = s.hist
  wpos : t.wpos = s.wpos
  crc : t.crc = s.crc
  window : t.window = s.window

/-- The accounts depend on those fields only, and on the header accumulator in a header phase. -/
theorem Accounts.quiet {s t : State} (h : Accounts s) (q : Quiet s t)
   (hh : headerPhase t.phase = true → t.hcrcAcc = (t.inBytes.take t.ip).foldl crcStep 0xFFFFFFFF) : Accounts t where
  isize := by rw [q.isize, q.out, h.isize]
  hist := by rw [q.hist, q.out, h.hist]
  wpos := by rw [q.wpos, q.out, h.wpos]
  crc := by rw [q.crc, q.out, h.crc]
  window := fun k h1 h2 => by
    have := h.window k h1 (q.hist ▸ h2)
    rw [q.window, q.wpos, this]; simp [outBehind, q.out]
  header := hh

/-- Emit (R550) keeps the accounts. -/
theorem accounts_emit {s : State} (b : Byte) (h : Accounts s) : Accounts (emit b s) where
  isize := by simp [h.isize, BitVec.ofNat_add]
  hist := by
    have := h.hist
    change (histNext s.hist).toNat = min (s.outBytes ++ [b]).length 32768
    unfold histNext Config.windowSize
    split
    · rw [BitVec.toNat_add]; simp; omega
    · simp; omega
  wpos := by
    have := h.wpos
    change (s.wpos + 1).toNat = (s.outBytes ++ [b]).length % 32768
    rw [BitVec.toNat_add]; simp; omega
  crc := by simp [h.crc, List.foldl_append]
  window := fun k h1 h2 => by
    have hh := h.hist
    have hw := h.wpos
    have h2' : k ≤ min (s.outBytes.length + 1) 32768 := by
      have e : (emit b s).hist.toNat = min (s.outBytes.length + 1) 32768 := by
        change (histNext s.hist).toNat = _
        unfold histNext Config.windowSize
        split
        · rw [BitVec.toNat_add]; simp; omega
        · simp; omega
      omega
    change Memory.lookup (Memory.write s.window s.wpos.toNat b) (((s.wpos + 1).toNat + 32768 - k) % 32768) = (s.outBytes ++ [b])[(s.outBytes ++ [b]).length - k]?
    have e1 : (s.wpos + 1).toNat = (s.wpos.toNat + 1) % 32768 := by rw [BitVec.toNat_add]; simp
    rw [e1]
    by_cases hk : k = 1
    · subst hk
      have : ((s.wpos.toNat + 1) % 32768 + 32768 - 1) % 32768 = s.wpos.toNat := by have := s.wpos.isLt; omega
      rw [this, lookup_write_same]; simp
    · rw [lookup_write_other]
      · have := h.window (k - 1) (by omega) (by omega)
        have e : ((s.wpos.toNat + 1) % 32768 + 32768 - k) % 32768 = (s.wpos.toNat + 32768 - (k - 1)) % 32768 := by have := s.wpos.isLt; omega
        rw [e, this, outBehind]
        rw [List.getElem?_append_left (by simp; omega)]
        congr 1; simp; omega
      · have := s.wpos.isLt; omega
  header := h.header

end Sys2Proof.Machine
end

