-- ==== Sys2Proof/Tests/Slice0.lean ====
section
/-! SUPPORT. The model's own tests: ill-formed terms refused, words written out from the spec's encodings decoded, one
step of the instructions on small states, and for each statement with hypotheses a witness that meets them. Expected
values come from the spec's encodings, tables and examples. -/

namespace Sys2Proof.Tests

open Sys2Proof.Machine

set_option Elab.async false

/-! ### Helpers -/

/-- A field of the state an outcome leaves. -/
def field {α : Type} (o : Host.Outcome State Fault Refusal) (f : State → α) : Option α :=
  match o with
  | .next t => some (f t)
  | _ => none

/-- An outcome with a field is a next state. -/
theorem next_of_field {o : Host.Outcome State Fault Refusal} (h : (field o fun _ => ()).isSome = true) :
    ∃ t, o = .next t := by
  cases o with
  | next t => exact ⟨t, rfl⟩
  | fault _ => cases h
  | refused _ => cases h

/-- A raw session in the symbol loop of a final fixed block, with the port open. -/
def sym (bytes : List Byte) : State :=
  { State.reset with
    phase := .symbol, ctrlRaw := true, modeRaw := true, bfinal := true, btype := 1, tblFixed := true
    inBytes := bytes, outReady := true }

/-- A raw session at a block header. -/
def hdr (bytes : List Byte) : State :=
  { State.reset with phase := .blkHdr, ctrlRaw := true, modeRaw := true, inBytes := bytes, outReady := true }

/-- A gzip session at its fixed header. -/
def gz (bytes : List Byte) : State := { State.reset with phase := .gzFixed, inBytes := bytes, outReady := true }

/-- A gzip session at its trailer, one byte `A` delivered. -/
def trl (bytes : List Byte) : State :=
  { State.reset with
    phase := .trailer, bfinal := true, btype := 1, tblFixed := true, inBytes := bytes, outReady := true
    outBytes := [0x41], isize := 1, hist := 1, wpos := 1, window := [(0, 0x41)], crc := crcStep 0xFFFFFFFF 0x41 }

/-- The copy of V4: three bytes from distance 1, after one byte `A`. -/
def cop : State :=
  { sym [] with
    phase := .copy, copyLen := 3, copyDist := 1
    outBytes := [0x41], isize := 1, hist := 1, wpos := 1, window := [(0, 0x41)], crc := crcStep 0xFFFFFFFF 0x41 }

/-- A dynamic block with one length more to define than `idx` says are. -/
def len (hlit : BitVec 9) (hdist : BitVec 6) (idx : BitVec 9) : State :=
  { sym [] with phase := .dynLens, tblFixed := false, hlit := hlit, hdist := hdist, idx := idx }

/-- A dynamic block before its counts, or before its code length code: `n` fields are owed. -/
def dyn (phase : Phase) (n : BitVec 5) (bytes : List Byte) : State :=
  { sym bytes with phase := phase, tblFixed := false, hlit := 257, hdist := 1, hclen := n }

/-- A dynamic block whose only CL symbol is 0, its code the bit 0. -/
def oneCl (bytes : List Byte) : State := { dyn .dynLens 4 bytes with clLens := loadClLens [0, 0, 0, 1] }

/-- The symbol loop of a dynamic block: EOB has a code of 1 bit, LEN_257 one of `n` bits, no distance symbol has one. -/
def dynSym (n : BitVec 4) (bytes : List Byte) : State :=
  { dyn .symbol 4 bytes with hlit := 258, lens := Vector.ofFn fun k => if k.val = 256 then 1 else if k.val = 257 then n else 0 }

theorem hdr_legal (bytes : List Byte) : Legal (hdr bytes) := by
  refine ⟨?_, ?_⟩
  · constructor <;> simp [hdr, State.reset, Memory.wf]
  · constructor <;> simp [hdr, State.reset, bytePhase, headerPhase, restPhase, hdr0Word]

theorem sym_legal (bytes : List Byte) : Legal (sym bytes) := by
  refine ⟨?_, ?_⟩
  · constructor <;> simp [sym, State.reset, Memory.wf]
  · constructor <;> simp [sym, State.reset, bytePhase, headerPhase, restPhase, hdr0Word]

theorem gz_legal (bytes : List Byte) : Legal (gz bytes) := by
  refine ⟨?_, ?_⟩
  · constructor <;> simp [gz, State.reset, Memory.wf]
  · constructor <;> simp [gz, State.reset, headerPhase, restPhase]

theorem trl_legal (bytes : List Byte) : Legal (trl bytes) := by
  refine ⟨?_, ?_⟩
  · constructor <;> simp [trl, State.reset, Memory.wf, Config.windowSize]
  · constructor <;> simp [trl, State.reset, bytePhase, headerPhase, restPhase]

theorem cop_legal : Legal cop := by
  refine ⟨?_, ?_⟩
  · constructor <;> simp [cop, sym, State.reset, Memory.wf, Config.windowSize]
  · constructor <;> simp [cop, sym, State.reset, bytePhase, headerPhase, restPhase, hdr0Word]

theorem dyn_legal {phase : Phase} (hp : phase = .dynHdr ∨ phase = .dynCllens) {n : BitVec 5}
    (hn : 4 ≤ n.toNat ∧ n.toNat ≤ 19) (bytes : List Byte) : Legal (dyn phase n bytes) := by
  have h0 : n ≠ 0#5 := by rintro rfl; simp at hn
  refine ⟨?_, ?_⟩
  · constructor <;> simp [dyn, sym, State.reset, Memory.wf, hn]
  · rcases hp with rfl | rfl <;>
      constructor <;> simp [dyn, sym, State.reset, bytePhase, headerPhase, restPhase, hdr0Word, h0]

theorem oneCl_legal (bytes : List Byte) : Legal (oneCl bytes) := by
  refine ⟨?_, ?_⟩
  · constructor <;> simp [oneCl, dyn, sym, State.reset, Memory.wf]
  · constructor <;>
      simp [oneCl, dyn, sym, State.reset, bytePhase, headerPhase, restPhase, hdr0Word, lensTotal]
    exact (show oversubscribed (clLengths (oneCl [])) Config.maxBitsCL = false by decide +kernel)

theorem dynSym_legal {n : BitVec 4} (hn : n = 0 ∨ n = 1) (bytes : List Byte) : Legal (dynSym n bytes) := by
  have h0 : DynTables (dynSym n []) := by
    rcases hn with rfl | rfl <;> constructor <;> decide +kernel
  have ht : DynTables (dynSym n bytes) := { h0 with }
  refine ⟨?_, ?_⟩
  · constructor <;> simp [dynSym, dyn, sym, State.reset, Memory.wf]
  · constructor <;>
      first
      | exact fun _ => .inr ht
      | simp [dynSym, dyn, sym, State.reset, bytePhase, headerPhase, restPhase, hdr0Word]

/-- Declaring the end of input leaves a legal state legal. -/
theorem inEnd_legal {s : State} (h : Legal s) (hi : s.phase ≠ .idle) : Legal { s with inEnd := true } :=
  ⟨{ h.values with }, { h.ready with
    lengths := h.ready.lengths
    tables := fun hp => (h.ready.tables hp).imp_right fun d => { d with }
    idle := fun hp => absurd hp hi }⟩

/-- No code begins the bits, when none of the symbols in range has one that does. -/
theorem no_code {lens : List Nat} {maxbits : Nat} {bs : List Bool}
    (h : ∀ k, k < lens.length → 0 < lens.getD k 0 → ¬ codeBits lens k <+: bs) :
    ∀ c, hasCode lens maxbits c → ¬ codeBits lens c <+: bs := by
  intro c hc
  by_cases hlt : c < lens.length
  · exact h c hlt hc.1
  · have := hc.1
    simp [List.getD, List.getElem?_eq_none (Nat.le_of_not_lt hlt)] at this

theorem cop_accounts : Accounts cop := by
  constructor <;> simp [cop, sym, State.reset, headerPhase]
  intro k h1 h2
  obtain rfl : k = 1 := by omega
  rfl

/-! ### Well-formedness -/

theorem test_wf_refuses_three_cll : Instr.wf (.dynCllens [1, 2, 3]) = false := by decide

theorem test_wf_refuses_twenty_cll : Instr.wf (.dynCllens (List.replicate 20 0)) = false := by decide

theorem test_wf_start_needs_bit_0 : Instr.wf (.start 0x8) = false := by decide

theorem test_wf_start_is_not_soft_reset : Instr.wf (.start 0x3) = false := by decide

theorem test_wf_soft_reset_needs_bit_1 : Instr.wf (.softReset 0x1) = false := by decide

theorem test_wf_write_at_offset_2 : Instr.wf (.regWrite 0x02 0) = false := by decide

theorem test_wf_write_is_no_command : Instr.wf (.regWrite 0x00 0x1) = false := by decide

theorem test_wf_read_at_offset_5 : Instr.wf (.regRead 0x05) = false := by decide

theorem test_wf_accepts :
    Instr.wf (.dynCllens [1, 2, 3, 4]) ∧ Instr.wf (.start 0x5) ∧ Instr.wf (.softReset 0x3) ∧
      Instr.wf (.regWrite 0x00 0xC) ∧ Instr.wf (.regRead 0x3C) := by decide

/-! ### Decoding, from the spec's encodings -/

/-- R201: the ten bytes of a fixed header. -/
theorem test_decode_gz_fixed :
    decode .gzFixed ⟨0, 8, [0x1F, 0x8B, 0x08, 0x1E, 0x01, 0x02, 0x03, 0x04, 0x05, 0x06]⟩ =
      .elem [.gzFixed 0x1E 0x04030201 0x05 0x06] ⟨0, 8, []⟩ := by decide +kernel

/-- R600: the magic is rejected after two bytes, the method after three. -/
theorem test_decode_bad_magic :
    decode .gzFixed ⟨0, 8, [0x1F, 0x8A, 0x08]⟩ = .illegal .invalidMagic .nothing ⟨0, 8, [0x08]⟩ ∧
      decode .gzFixed ⟨0, 8, [0x1F, 0x8B, 0x07]⟩ = .illegal .unsupportedMethod (.hdrCm 7) ⟨0, 8, []⟩ := by
  decide +kernel

/-- R203: the optional header fields. -/
theorem test_decode_optional_fields :
    decode .gzXlen ⟨0, 8, [0x03, 0x01]⟩ = .elem [.gzXlen 0x0103] ⟨0, 8, []⟩ ∧
      decode .gzExtra ⟨0, 8, [0x61]⟩ = .elem [.gzExtra 0x61] ⟨0, 8, []⟩ ∧
      decode .gzName ⟨0, 8, [0x00]⟩ = .elem [.gzName 0] ⟨0, 8, []⟩ ∧
      decode .gzComment ⟨0, 8, [0x7A]⟩ = .elem [.gzComment 0x7A] ⟨0, 8, []⟩ ∧
      decode .gzHcrc ⟨0, 8, [0x90, 0xC9]⟩ = .elem [.gzHcrc 0xC990] ⟨0, 8, []⟩ := by decide +kernel

/-- R204: BFINAL first, then BTYPE, low bit first; the header may cross a byte. -/
theorem test_decode_block_headers :
    decode .blkHdr ⟨0, 8, [0x01]⟩ = .elem [.blkStored true] ⟨0x01, 3, []⟩ ∧
      decode .blkHdr ⟨0, 8, [0x02]⟩ = .elem [.blkFixed false] ⟨0x02, 3, []⟩ ∧
      decode .blkHdr ⟨0, 8, [0x05]⟩ = .elem [.blkDynamic true] ⟨0x05, 3, []⟩ ∧
      decode .blkHdr ⟨0, 8, [0x06]⟩ = .elem [.blkReserved false] ⟨0x06, 3, []⟩ ∧
      decode .blkHdr ⟨0x80, 7, [0x01]⟩ = .elem [.blkFixed true] ⟨0x01, 2, []⟩ := by decide +kernel

/-- R205: the alignment, then LEN and NLEN, low byte first. -/
theorem test_decode_stored :
    decode .storedLen ⟨0x01, 3, [0x05, 0x00, 0xFA, 0xFF]⟩ = .elem [.storedLen 5 0xFFFA] ⟨0x01, 8, []⟩ ∧
      decode .storedCopy ⟨0, 8, [0x6F]⟩ = .elem [.storedCopy 0x6F] ⟨0, 8, []⟩ := by decide +kernel

/-- R206, R420: HLIT field 0, HDIST field 0, HCLEN field 14. -/
theorem test_decode_dyn_hdr : decode .dynHdr ⟨0, 8, [0x00, 0x38]⟩ = .elem [.dynHdr 0 0 14] ⟨0x38, 6, []⟩ := by
  decide +kernel

/-- R207, R421: fields 2, 0, 2, 1. -/
theorem test_decode_cllens :
    decode (.dynCllens 4) ⟨0, 8, [0x82, 0x02]⟩ = .elem [.dynCllens [2, 0, 2, 1]] ⟨0x02, 4, []⟩ := by decide +kernel

/-- R208 under the code of R421's example: codes 0 for symbol 0, 10 for 16, 11 for 18. -/
theorem test_decode_cl_symbols :
    decode (.clSym [1, 0, 0, 0, 0, 0, 0, 0, 0, 0, 0, 0, 0, 0, 0, 0, 2, 0, 2]) ⟨0, 8, [0x05]⟩ =
        .elem [.cl16 1] ⟨0x05, 4, []⟩ ∧
      decode (.clSym [1, 0, 0, 0, 0, 0, 0, 0, 0, 0, 0, 0, 0, 0, 0, 0, 2, 0, 2]) ⟨0, 8, [0x07, 0x01]⟩ =
        .elem [.cl18 0x41] ⟨0x01, 1, []⟩ ∧
      decode (.clSym [1, 0, 0, 0, 0, 0, 0, 0, 0, 0, 0, 0, 0, 0, 0, 0, 2, 0, 2]) ⟨0, 8, [0x06]⟩ =
        .elem [.cl0] ⟨0x06, 1, []⟩ := by decide +kernel

/-- R403, R404: of the lengths (1), the bit 1 is no code. -/
theorem test_decode_no_code :
    decode (.clSym [1]) ⟨0, 8, [0xFF]⟩ = .illegal (.corruptBlock .clNocode) .nothing ⟨0xFF, 7, []⟩ := by decide +kernel

/-- R209, R451: the 8-bit code 10111111 of 0x8F and the 9-bit code 110010000 of 0x90. -/
theorem test_decode_literals :
    decode (.llSym fixedLlLens fixedDLens) ⟨0, 8, [0xFD]⟩ = .elem [.lit 0x8F] ⟨0xFD, 8, []⟩ ∧
      decode (.llSym fixedLlLens fixedDLens) ⟨0, 8, [0x13, 0x00]⟩ = .elem [.lit 0x90] ⟨0x00, 1, []⟩ := by
  decide +kernel

/-- R452, R460, R490: EOB 0000000; LEN_257 0000001 and DIST_0 00000. -/
theorem test_decode_eob_and_pair :
    decode (.llSym fixedLlLens fixedDLens) ⟨0, 8, [0x00]⟩ = .elem [.eob] ⟨0x00, 7, []⟩ ∧
      decode (.llSym fixedLlLens fixedDLens) ⟨0, 8, [0x40, 0x00]⟩ = .elem [.len257, .dist0] ⟨0x00, 4, []⟩ := by
  decide +kernel

/-- R487, R519: LEN_284 11000100 with LX = 31, DIST_29 11101 with DX = 8191. -/
theorem test_decode_longest_pair :
    decode (.llSym fixedLlLens fixedDLens) ⟨0, 8, [0x23, 0xFF, 0xFE, 0x7F]⟩ =
      .elem [.len284 31, .dist29 8191] ⟨0x7F, 7, []⟩ := by decide +kernel

/-- R520 to R523: the invalid symbols take no extra bits. -/
theorem test_decode_invalid_symbols :
    decode (.llSym fixedLlLens fixedDLens) ⟨0, 8, [0x63]⟩ = .elem [.ll286] ⟨0x63, 8, []⟩ ∧
      decode (.llSym fixedLlLens fixedDLens) ⟨0, 8, [0xE3]⟩ = .elem [.ll287] ⟨0xE3, 8, []⟩ ∧
      decode (.llSym fixedLlLens fixedDLens) ⟨0, 8, [0xC0, 0x07]⟩ = .elem [.len257, .d30] ⟨0x07, 4, []⟩ := by
  decide +kernel

/-- R211: the trailer of V1. -/
theorem test_decode_trailer :
    decode .trailer ⟨0, 5, [0x86, 0xA6, 0x10, 0x36, 0x05, 0x00, 0x00, 0x00]⟩ =
      .elem [.gzTrailer 0x3610A686 5] ⟨0, 8, []⟩ := by decide +kernel

/-- R242, R652: the host's transfers. -/
theorem test_decode_host :
    decodeHost (.regWrite 0 0x5) = .command (.start 0x5) ∧ decodeHost (.regWrite 0 0x3) = .command (.softReset 0x3) ∧
      decodeHost (.regWrite 0 0x8) = .command (.regWrite 0 0x8) ∧ decodeHost (.regRead 0x1C) = .command (.regRead 0x1C) ∧
      decodeHost (.regRead 0x1D) = .badAccess ∧ decodeHost .rst = .command .hardReset := by decide

/-- R154: byte `k` of a bus access is bits 8k+7 to 8k of the register: the bytes 05 00 00 00 written to CTRL are START,
bytes 1 to 3 of it are ignored, and an access of 2 bytes is none (R157). -/
theorem test_bus_byte_lanes :
    decodeAccess 0 0 4 (fun off => regWriteInstr off (laneWord [0x05, 0x00, 0x00, 0x00])) = .command (.start 0x5) ∧
      laneWord [0x78, 0x56, 0x34, 0x12] = 0x12345678 ∧
      busRdata { State.reset with regRdata := 0x12345678 } = [0x78, 0x56, 0x34, 0x12] ∧
      decodeAccess 0 0 2 (fun off => regWriteInstr off (laneWord [0x05, 0x00])) = .badAccess := by decide

/-- R242: the selecting values 0x101, 0x1D and 0x10, and the bytes of a fixed header (notes/assumptions/3.md). -/
theorem test_table_words :
    decodeTableWord 16 0x101 = some .len257 ∧ decodeTableWord 32 0x1D = some (.dist29 0) ∧
      decodeTableWord 8 0x10 = some (.cl16 0) ∧ decodeTableWord 24 0x088B1F = some (.gzFixed 0 0 0 0) := by decide +kernel

/-- A placed word is what the next step runs: the literal 0x41, and a fixed header. -/
theorem test_placed_words :
    field (step (State.reset.withFetchWord 16 0x41)) (fun t => t.outBytes) = some [0x41] ∧
      field (step (State.reset.withFetchWord 24 0x088B1F)) (fun t => (t.phase, t.ip)) = some (.blkHdr, 10) := by
  decide +kernel

/-- R405: the example of the construction. -/
theorem test_canonical_codes :
    (List.range 8).map (fun s => codeOf [3, 3, 3, 3, 3, 2, 4, 4] s) = [2, 3, 4, 5, 6, 0, 14, 15] := by decide

/-- R403: lengths (1, 1, 1) over-subscribe; R401: no codes at all do not. -/
theorem test_oversubscribed :
    oversubscribed [1, 1, 1] 15 = true ∧ oversubscribed [0, 0] 15 = false ∧ oversubscribed [1] 15 = false := by decide

/-! ### One step -/

/-- R600: the example leads to BLK_HDR with IN_POS 10. -/
theorem test_gz_fixed_step :
    field (step (gz [0x1F, 0x8B, 0x08, 0x00, 0x00, 0x00, 0x00, 0x00, 0x00, 0xFF])) (fun t => (t.phase, t.ip, hdr0Word t)) =
      some (.blkHdr, 10, 0xFF000008) := by decide +kernel

/-- R601, R602: an empty extra field; the last extra byte. -/
theorem test_extra_field :
    field (exec (.gzXlen 0) { gz [] with hdrFlg := 0x0C }) (fun t => t.phase) = some .gzName ∧
      field (exec (.gzExtra 0x61) { gz [] with hdrFlg := 0x14, xlenRem := 1 }) (fun t => (t.phase, t.xlenRem)) =
        some (.gzComment, 0) := by decide +kernel

/-- R603, R604: the byte 0x00 ends a name and a comment. -/
theorem test_name_and_comment :
    field (exec (.gzName 0) { gz [] with hdrFlg := 0x1A, phase := .gzName }) (fun t => t.phase) = some .gzComment ∧
      field (exec (.gzName 0x61) { gz [] with hdrFlg := 0x1A, phase := .gzName }) (fun t => t.phase) = some .gzName ∧
      field (exec (.gzComment 0) { gz [] with hdrFlg := 0x12 }) (fun t => t.phase) = some .gzHcrc := by decide +kernel

/-- R605: the header 1F 8B 08 02 00 00 00 00 00 FF has CRC-32 0xB857C990. -/
theorem test_hcrc :
    field (exec (.gzHcrc 0xC990) { gz [] with
      hcrcAcc := [0x1F, 0x8B, 0x08, 0x02, 0x00, 0x00, 0x00, 0x00, 0x00, 0xFF].foldl crcStep 0xFFFFFFFF })
      (fun t => (t.hcrcCalc, t.warnHcrc, t.phase)) = some (0xC990, false, .blkHdr) := by decide +kernel

/-- R704: bits 111 give ERR = 0x00010103 and PHASE 17. -/
theorem test_reserved_block :
    field (step (hdr [0x07])) (fun t => (errWord t, (statusWord t).extractLsb' 0 5, t.btype)) =
      some (0x00010103, 17, 3) := by decide +kernel

/-- R355: LEN 5 opens the copy, LEN 0 ends the block, a wrong NLEN is detail 2. -/
theorem test_stored_len :
    field (exec (.storedLen 5 0xFFFA) (hdr [])) (fun t => (t.storedRem, t.phase)) = some (5, .storedCopy) ∧
      field (exec (.storedLen 0 0xFFFF) (hdr [])) (fun t => t.phase) = some .blkHdr ∧
      field (exec (.storedLen 5 0xFFFB) (hdr [])) (fun t => t.errDetail) = some 2 := by decide +kernel

/-- R356: the last byte ends the block and is delivered. -/
theorem test_stored_copy :
    field (exec (.storedCopy 0x6F) { sym [] with phase := .storedCopy, storedRem := 1 })
      (fun t => (t.outBytes, t.phase, t.storedRem)) = some ([0x6F], .done, 0) := by decide +kernel

/-- R420: HLIT 286 and HDIST 30 pass, 287 and 31 do not, HLIT first. -/
theorem test_dyn_hdr :
    field (exec (.dynHdr 29 29 15) (hdr [])) (fun t => (t.hlit, t.hdist, t.hclen, t.phase)) =
        some (286, 30, 19, .dynCllens) ∧
      field (exec (.dynHdr 30 30 0) (hdr [])) (fun t => t.errDetail) = some 3 ∧
      field (exec (.dynHdr 29 30 0) (hdr [])) (fun t => t.errDetail) = some 4 := by decide +kernel

/-- R421: the example's lengths. -/
theorem test_cllens :
    field (exec (.dynCllens [2, 0, 2, 1]) (hdr [])) (fun t => (clLengths t, t.phase)) =
      some ([1, 0, 0, 0, 0, 0, 0, 0, 0, 0, 0, 0, 0, 0, 0, 0, 2, 0, 2], .dynLens) := by decide +kernel

/-- R423: symbol 7 at index 97. -/
theorem test_cl7 :
    field (exec .cl7 (len 257 1 97)) (fun t => (t.lens.toList.getD 97 0, t.idx)) = some (7, 98) := by decide +kernel

/-- R422: at index 5 with length 8 before it, symbol 16 with 1 defines lens 5 to 8. -/
theorem test_cl16 :
    field (exec (.cl16 1) { len 257 1 5 with lens := (Vector.replicate 316 0).set 4 8 })
      (fun t => ((t.lens.toList.drop 4).take 6, t.idx)) = some ([8, 8, 8, 8, 8, 0], 9) := by decide +kernel

/-- R424: symbol 16 first is detail 7. -/
theorem test_cl16_first : field (exec (.cl16 0) (len 257 1 0)) (fun t => t.errDetail) = some 7 := by decide +kernel

/-- R422: a run past the total is detail 8. -/
theorem test_cl18_overrun :
    field (exec (.cl18 127) (len 257 1 121)) (fun t => (t.errDetail, t.idx)) = some (8, 121) := by decide +kernel

/-- R427: the example's tables: 'a' 1, EOB 1, no distance code. -/
theorem test_complete_tables :
    field (exec .cl0 { len 257 1 257 with lens := ((Vector.replicate 316 0).set 97 1).set 256 1 })
      (fun t => (t.phase, t.tblFixed)) = some (.symbol, false) := by decide +kernel

/-- R450: bits 01110001 emit A. -/
theorem test_literal_step :
    field (step (sym [0x8E])) (fun t => (t.outBytes, t.phase, t.ip, t.isize)) = some ([0x41], .symbol, 1, 1) := by
  decide +kernel

/-- R357, R452: EOB of a final raw block is DONE, aligned. -/
theorem test_eob_step : field (step (sym [0x00])) (fun t => (t.phase, t.bitpos)) = some (.done, 8) := by decide +kernel

/-- R487: LX = 31 gives 258. -/
theorem test_len284 : field (exec (.len284 31) (sym [])) (fun t => t.matchLen) = some (some 258) := by decide +kernel

/-- R519: DX = 8191 gives 32768, valid with the whole window. -/
theorem test_dist29 :
    field (exec (.dist29 8191) { sym [] with hist := 32768, matchLen := some 3 })
      (fun t => (t.copyDist, t.copyLen, t.phase)) = some (32768, 3, .copy) := by decide +kernel

/-- R554: the distance just beyond the history. -/
theorem test_window_underflow :
    field (exec .dist1 { sym [] with hist := 1, matchLen := some 3 }) (fun t => (t.phase, t.errCode, t.errOrigin)) =
      some (.error, 4, true) := by decide +kernel

/-- R453: the pair of V4 as one step. -/
theorem test_pair_step :
    field (step { sym [0x40, 0x00] with hist := 1 }) (fun t => (t.copyLen, t.copyDist, t.phase, t.bitpos, t.matchLen)) =
      some (3, 1, .copy, 4, none) := by decide +kernel

/-- R555: one byte of the copy. -/
theorem test_copy_step :
    field (step cop) (fun t => (t.outBytes, t.copyLen, t.phase)) = some ([0x41, 0x41], 2, .copy) := by decide +kernel

/-- R520, R522. -/
theorem test_invalid_symbols :
    field (exec .ll286 (sym [])) (fun t => (t.errCode, t.errDetail)) = some (3, 14) ∧
      field (exec .d30 { sym [] with matchLen := some 3 }) (fun t => (t.errCode, t.errDetail)) = some (3, 15) := by
  decide +kernel

/-- R620: the trailer of one byte `A`, CRC-32 0xD3D99E8B (hand-computed by the rule R610), and a wrong length. -/
theorem test_trailer_step :
    field (step (trl [0x8B, 0x9E, 0xD9, 0xD3, 0x01, 0x00, 0x00, 0x00])) (fun t => (t.phase, t.ip)) = some (.done, 8) ∧
      field (step (trl [0x8B, 0x9E, 0xD9, 0xD3, 0x02, 0x00, 0x00, 0x00])) (fun t => (t.phase, errWord t)) =
        some (.error, 6) ∧
      field (step (trl [0x8A, 0x9E, 0xD9, 0xD3, 0x02, 0x00, 0x00, 0x00])) (fun t => (t.phase, errWord t)) =
        some (.error, 5) := by decide +kernel

/-- R610: the check values of "hello" and of the nine digits. -/
theorem test_crc :
    ([0x68, 0x65, 0x6C, 0x6C, 0x6F].foldl crcStep 0xFFFFFFFF ^^^ 0xFFFFFFFF : Word) = 0x3610A686 ∧
      ([0x31, 0x32, 0x33, 0x34, 0x35, 0x36, 0x37, 0x38, 0x39].foldl crcStep 0xFFFFFFFF ^^^ 0xFFFFFFFF : Word) =
        0xCBF43926 := by decide +kernel

/-- R300, R657: one byte of the header held, then the end of input. -/
theorem test_end_of_input :
    field (step (gz [0x1F])) (fun t => (t.phase, t.ip)) = some (.gzFixed, 0) ∧
      field (step { gz [0x1F] with inEnd := true }) (fun t => (t.phase, t.ip, t.errCode)) = some (.error, 1, 7) := by
  decide +kernel

/-- R404, R701: no code in the CL table (detail 6, after 7 bits), in the LL table (12, after 15) and in the distance
table (13, after 1 bit of LEN_257 and 15 more). -/
theorem test_no_code_steps :
    field (step (oneCl [0xFF])) (fun t => (t.phase, errWord t, t.ip, t.bitpos)) = some (.error, 0x00010603, 1, 7) ∧
      field (step (dynSym 0 [0xFF, 0xFF])) (fun t => (t.phase, errWord t, t.ip, t.bitpos)) =
        some (.error, 0x00010C03, 2, 7) ∧
      field (step (dynSym 1 [0xFF, 0xFF])) (fun t => (t.phase, errWord t, t.ip, t.bitpos)) =
        some (.error, 0x00010D03, 2, 8) := by decide +kernel

/-- R18, R705: the header ends inside MTIME: CM and FLG are kept, MTIME is not written. -/
theorem test_end_inside_header :
    field (step { gz [0x1F, 0x8B, 0x08, 0x1E, 0x01, 0x02] with inEnd := true })
      (fun t => (t.errCode, hdr0Word t, t.hdrMtime, t.ip)) = some (7, 0x00001E08, 0, 6) := by decide +kernel

/-- R653: a write of 0x1 from IDLE gives STATUS = 0x21; 0x5 opens a raw session. -/
theorem test_start :
    field (exec (.start 0x1) State.reset) (fun t => statusWord t) = some 0x21 ∧
      field (exec (.start 0x5) State.reset) (fun t => (t.phase, t.modeRaw)) = some (.blkHdr, true) := by decide +kernel

/-- R654: during COPY a write of 0x2 gives STATUS = 0 and ISIZE = 0. -/
theorem test_soft_reset :
    field (exec (.softReset 0x2) cop) (fun t => (statusWord t, t.isize, t.outBytes)) = some (0, 0, []) := by
  decide +kernel

/-- R652: a write of 0x8 sets IRQ_EN and starts nothing. -/
theorem test_reg_write :
    field (exec (.regWrite 0x00 0x8) State.reset) (fun t => (t.ctrlIrqEn, t.phase)) = some (true, .idle) := by
  decide +kernel

/-- R651 in ERROR: ERR, and IN_POS at the offsets of R59. -/
theorem test_reg_read :
    field (exec (.regRead 0x08) (raise .checksumMismatch (trl []))) (fun t => t.regRdata) = some 5 ∧
      field (exec (.regRead 0x1C) { State.reset with ip := 28 }) (fun t => t.regRdata) = some 28 := by decide +kernel

/-- R655, R661: pushing 1F in a session, and outside one. -/
theorem test_push_byte :
    field (exec (.pushByte 0x1F) (gz [])) (fun t => t.inBytes) = some [0x1F] ∧
      field (exec (.pushByte 0x1F) State.reset) (fun t => t.inBytes) = some [] := by decide +kernel

/-- R657. -/
theorem test_end_input : field (exec .endInput (gz [])) (fun t => t.inEnd) = some true := by decide +kernel

/-- R662: accepting the byte the copy offers. -/
theorem test_out_accept :
    field (exec .outAccept cop) (fun t => t.outBytes) = some [0x41, 0x41] ∧
      field (exec .outAccept { cop with outReady := false }) (fun t => t.outBytes) = some [0x41] := by decide +kernel

/-- R751. -/
theorem test_hard_reset :
    field (exec .hardReset cop) (fun t => (statusWord t, crcOut t, t.phase)) = some (0, 0, .idle) := by decide +kernel

/-! ### Witnesses: for each statement with hypotheses, a state and operands that meet them -/

theorem witness_RaiseRecordsTheError : ∀ d, Err.invalidMagic ≠ .corruptBlock d := nofun

theorem witness_EmitDeliversOneByte : 0 ≠ (trl []).wpos.toNat := by decide

theorem witness_EndOfBlockSelectsThePhase :
    ((sym []).bfinal = true ∧ (sym []).modeRaw = true) ∧ ((trl []).bfinal = true ∧ (trl []).modeRaw = false) ∧
      (hdr []).bfinal = false := by decide

/-- Lengths that take each branch of CompleteTables. -/
def tables (ll1 eob d : BitVec 4) (n : Nat) : State :=
  { len 257 3 260 with lens := Vector.ofFn fun k =>
      if k.val < n then ll1 else if k.val = 256 then eob else if 257 ≤ k.val then d else 0 }

theorem witness_TablesAreCheckedInOrder :
    (completeTables (tables 1 1 0 2)).errDetail = 9 ∧ (completeTables (tables 1 0 0 2)).errDetail = 10 ∧
      (completeTables (tables 1 1 1 1)).errDetail = 11 ∧ (completeTables (tables 1 1 2 1)).phase = .symbol := by
  decide +kernel

theorem witness_OptionalHeaderBytesAreSkipped :
    (1 : BitVec 16) ≠ 0 ∧ (0xFFFF : BitVec 16) ≠ 0 ∧ { gz [] with xlenRem := 2 }.xlenRem ≠ 1 ∧
      { gz [] with xlenRem := 1 }.xlenRem = 1 ∧ (1 : Byte) ≠ 0 := by decide

theorem witness_StoredLengthIsCheckedAgainstItsComplement :
    ((0xFFFE : BitVec 16) = ~~~1 ∧ (1 : BitVec 16) ≠ 0) ∧ ((0 : BitVec 16) = ~~~0xFFFF ∧ (0xFFFF : BitVec 16) ≠ 0) ∧
      ((0xFFFF : BitVec 16) = ~~~0 ∧ (0 : BitVec 16) = 0) ∧ (0 : BitVec 16) ≠ ~~~0 := by decide

theorem witness_StoredByteIsDelivered :
    (({ sym [] with storedRem := 2 }.outReady = true ∧ { sym [] with storedRem := 2 }.storedRem ≠ 1) ∧
      ({ sym [] with storedRem := 1 }.outReady = true ∧ { sym [] with storedRem := 1 }.storedRem = 1)) ∧
      State.reset.outReady = false := by decide

theorem witness_DynamicCountsAreChecked :
    ((29 : BitVec 5).toNat ≤ 29 ∧ (29 : BitVec 5).toNat ≤ 29) ∧ 30 ≤ (30 : BitVec 5).toNat ∧
      ((29 : BitVec 5).toNat ≤ 29 ∧ 30 ≤ (30 : BitVec 5).toNat) := by decide

/-- A code of 4 lengths that fits, one of 19 that does not, and the codes of 19 equal lengths 5. -/
theorem witness_CodeLengthCodeIsLoadedInOrder :
    (4 ≤ [1, 2, 3, 3].length ∧ [1, 2, 3, 3].length ≤ 19) ∧
      oversubscribed [3, 0, 0, 0, 0, 0, 0, 0, 0, 0, 0, 0, 0, 0, 0, 0, 1, 2, 3] 7 = false ∧
      (4 ≤ (List.replicate 19 (1 : BitVec 3)).length ∧ (List.replicate 19 (1 : BitVec 3)).length ≤ 19) ∧
      oversubscribed (List.replicate 19 1) 7 = true := by decide +kernel

theorem witness_CodeLengthSymbolsDefineOneLength :
    (Instr.cl15, (15 : BitVec 4)) ∈ [(Instr.cl0, (0 : BitVec 4)), (.cl15, 15)] ∧
      (len 286 30 0).idx.toNat + 1 < (len 286 30 0).hlit.toNat + (len 286 30 0).hdist.toNat ∧
      (len 286 30 314).idx.toNat + 1 < (len 286 30 314).hlit.toNat + (len 286 30 314).hdist.toNat ∧
      (len 286 30 315).idx.toNat + 1 = (len 286 30 315).hlit.toNat + (len 286 30 315).hdist.toNat ∧
      (len 286 30 315).hlit.toNat + (len 286 30 315).hdist.toNat ≤ 316 := by decide

/-- The shortest run that goes on, one that ends at the total, one that passes it by one, of each symbol; and symbol 16
first. -/
theorem witness_RepeatSymbolsDefineRuns :
    ((∃ r : BitVec 2, Instr.cl16 3 = .cl16 r ∧ 6 = 3 + r.toNat ∧ (len 286 30 310).idx ≠ 0 ∧
        (len 286 30 310).lens.toList[(len 286 30 310).idx.toNat - 1]? = some 0) ∧
      (len 286 30 310).idx.toNat + 6 = (len 286 30 310).hlit.toNat + (len 286 30 310).hdist.toNat) ∧
    ((∃ r : BitVec 3, Instr.cl17 0 = .cl17 r ∧ 3 = 3 + r.toNat ∧ (0 : BitVec 4) = 0) ∧
      (len 286 30 312).idx.toNat + 3 < (len 286 30 312).hlit.toNat + (len 286 30 312).hdist.toNat) ∧
    ((∃ r : BitVec 7, Instr.cl18 127 = .cl18 r ∧ 138 = 11 + r.toNat ∧ (0 : BitVec 4) = 0) ∧
      (len 286 30 179).hlit.toNat + (len 286 30 179).hdist.toNat < (len 286 30 179).idx.toNat + 138) ∧
    (len 286 30 0).hlit.toNat + (len 286 30 0).hdist.toNat ≤ 316 ∧ (len 286 30 0).idx = 0 := by
  refine ⟨⟨⟨3, ?_⟩, ?_⟩, ⟨⟨0, ?_⟩, ?_⟩, ⟨⟨127, ?_⟩, ?_⟩, ?_, ?_⟩ <;> decide +kernel

theorem witness_LiteralIsDeliveredAndEobEndsTheBlock : (sym []).outReady = true ∧ State.reset.outReady = false := by
  decide

theorem witness_DistanceSymbolsStartTheCopy :
    { sym [] with matchLen := some 258, hist := 32768 }.matchLen = some 258 ∧
      24577 + (8191 : BitVec 13).toNat ≤ { sym [] with matchLen := some 258, hist := 32768 }.hist.toNat ∧
      1 ≤ { sym [] with matchLen := some 3, hist := 1 }.hist.toNat := by decide

theorem witness_InvalidSymbolsAreCorrupt : { sym [] with matchLen := some 3 }.matchLen = some 3 := by decide

theorem witness_TrailerIsComparedInOrder :
    ((0xD3D99E8B : Word) = (trl []).crc ^^^ 0xFFFFFFFF ∧ (1 : Word) = (trl []).isize) ∧
      (0xD3D99E8A : Word) ≠ (trl []).crc ^^^ 0xFFFFFFFF ∧
      ((0xD3D99E8B : Word) = (trl []).crc ^^^ 0xFFFFFFFF ∧ (0 : Word) ≠ (trl []).isize) := by decide +kernel

theorem witness_StartOpensASession :
    ((0x5 : Word).getLsbD 0 = true ∧ (0x5 : Word).getLsbD 1 = false) ∧ restPhase State.reset.phase = true ∧
      restPhase (raise .windowUnderflow (sym [])).phase = true ∧ restPhase (sym []).phase = false := by decide

theorem witness_SoftResetActsInEveryPhase : (0x2 : Word).getLsbD 1 = true ∧ (0x3 : Word).getLsbD 1 = true := by decide

theorem witness_OtherRegisterWritesAreIgnored :
    ((0 : BitVec 6) = 0 ∧ (0xC : Word).getLsbD 0 = false ∧ (0xC : Word).getLsbD 1 = false) ∧
      ((4 : BitVec 6) ≠ 0 ∧ (4 : BitVec 6).toNat % 4 = 0) ∧ ((60 : BitVec 6) ≠ 0 ∧ (60 : BitVec 6).toNat % 4 = 0) ∧
      (63 : BitVec 6).toNat % 4 ≠ 0 := by decide

theorem witness_RegisterReadsAnswerTheRegister :
    (1 : BitVec 6).toNat % 4 ≠ 0 ∧ (0x2C : BitVec 6).toNat % 4 = 0 ∧ 0x2C ≤ (0x2C : BitVec 6).toNat ∧
      (0x3C : BitVec 6).toNat % 4 = 0 ∧ 0x2C ≤ (0x3C : BitVec 6).toNat ∧ (0x28 : BitVec 6).toNat % 4 = 0 ∧
      restPhase State.reset.phase = true ∧ restPhase (raise .windowUnderflow (sym [])).phase = true := by decide

theorem witness_InputPortTakesBytesAndTheEndOfInput :
    inReady (gz []) = true ∧ inReady State.reset = false ∧ restPhase State.reset.phase = true ∧
      { gz [] with inEnd := true }.inEnd = true ∧
      (restPhase (gz [0x1F]).phase = false ∧ (gz [0x1F]).inEnd = false ∧ heldOnInput (gz [0x1F]) = true) := by
  decide +kernel

theorem witness_OutAcceptCompletesTheEmittingStep :
    (cop.outReady = true ∧ outValid cop = true) ∧ ((sym [0x8E]).outReady = true ∧ outValid (sym [0x8E]) = true) ∧
      { cop with outReady := false }.outReady = false ∧ outValid (sym []) = false ∧
      (outValid { sym [0x8E] with outReady := false } = true ∧ expected (sym [0x8E]) = some (.llSym fixedLlLens fixedDLens) ∧
        decode (.llSym fixedLlLens fixedDLens) (cursorOf (sym [0x8E])) = .elem [.lit 0x41] ⟨0x8E, 8, []⟩) ∧
      (offered (sym [0x8E])).map Prod.fst = some 0x41 ∧
      field (engineStep { { sym [0x8E] with outReady := false } with outReady := true }) (fun t => t.outBytes) =
        some [0x41] := by decide +kernel

theorem witness_OutAcceptFromLegalStates : Legal (sym [0x8E]) ∧ Legal cop := ⟨sym_legal _, cop_legal⟩

theorem witness_RegistersReadZeroAfterReset : (0x3C : BitVec 6).toNat % 4 = 0 := by decide

theorem witness_HardResetRestoresEveryField :
    exec .hardReset cop = .next { State.reset with outReady := true, wEpoch := 1 } := by rfl

theorem witness_StepRunsTheDecodedElement :
    (expected (sym [0x8E]) = some (.llSym fixedLlLens fixedDLens) ∧
      decode (.llSym fixedLlLens fixedDLens) (cursorOf (sym [0x8E])) = .elem [.lit 0x41] ⟨0x8E, 8, []⟩ ∧
      ((sym [0x8E]).outReady = true ∨ [Instr.lit 0x41].any emits = false) ∧ (sym [0x8E]).agenda = [] ∧
      { sym [0x8E] with agenda := [.engine] }.agenda = .engine :: []) ∧
    Legal (sym [0x8E]) ∧
    ∃ u v, exec .len257 u = .next v := by
  refine ⟨?_, sym_legal _, sym [], { sym [] with matchLen := some 3 }, rfl⟩
  decide +kernel

theorem witness_HeldStepsChangeNothing :
    (expected (gz [0x1F]) = some .gzFixed ∧ decode .gzFixed (cursorOf (gz [0x1F])) = .short .nothing ⟨0, 8, []⟩ ∧
      (gz [0x1F]).inEnd = false ∧ { gz [0x1F] with inEnd := true }.inEnd = true) ∧
    (decode (.llSym fixedLlLens fixedDLens) (cursorOf { sym [0x8E] with outReady := false }) =
        .elem [.lit 0x41] ⟨0x8E, 8, []⟩ ∧
      [Instr.lit 0x41].any emits = true ∧ { sym [0x8E] with outReady := false }.outReady = false) ∧
    (expected (oneCl [0xFF]) = some (.clSym (clLengths (oneCl [0xFF]))) ∧
      decode (.clSym (clLengths (oneCl [0xFF]))) (cursorOf (oneCl [0xFF])) =
        .illegal (.corruptBlock .clNocode) .nothing ⟨0xFF, 7, []⟩) := by decide +kernel

/-- A state whose input ends inside an element, for each element that keeps fields and for one that keeps none: the
header after one byte of no magic and after nine bytes, the counts after 8 bits, the code length code after 8 of its 57
bits, the trailer after its CRC-32, and XLEN after its first byte. -/
theorem witness_EndOfInputInsideAnElement :
    let a := { gz [0x1E] with inEnd := true }
    let b := { gz [0x1F, 0x8B, 0x08, 0x1E, 1, 2, 3, 4, 5] with inEnd := true }
    let d := { dyn .dynHdr 4 [0xFF] with inEnd := true }
    let e := { dyn .dynCllens 19 [0xFF] with inEnd := true }
    let f := { trl [1, 2, 3, 4] with inEnd := true }
    let g := { hdr [] with inEnd := true }
    (Legal a ∧ Legal b ∧ Legal d ∧ Legal e ∧ Legal f ∧ Legal g) ∧
    ((a.inBytes.drop a.ip).length < 2 ∧ (b.inBytes.drop b.ip).length < 10 ∧
      (b.inBytes.drop b.ip).take 3 <+: [0x1F, 0x8B, 0x08]) ∧
    (d.phase = .dynHdr ∧ (cursorOf d).bits.length < 14 ∧ 5 ≤ (cursorOf d).bits.length) ∧
    (e.phase = .dynCllens ∧ (cursorOf e).bits.length < 3 * e.hclen.toNat) ∧
    (f.phase = .trailer ∧ (f.inBytes.drop f.ip).length < 8) ∧
    (expected g = some .blkHdr ∧ decode .blkHdr (cursorOf g) = .short .nothing ⟨0, 8, []⟩) := by
  refine ⟨⟨inEnd_legal (gz_legal _) nofun, inEnd_legal (gz_legal _) nofun,
    inEnd_legal (dyn_legal (.inl rfl) (by decide) _) nofun, inEnd_legal (dyn_legal (.inr rfl) (by decide) _) nofun,
    inEnd_legal (trl_legal _) nofun, inEnd_legal (hdr_legal _) nofun⟩, ?_⟩
  decide +kernel

theorem witness_HostTurnRunsItsCommand :
    ({ State.reset with agenda := [.host (.regWrite 0 0x1)] }.agenda = .host (.regWrite 0 0x1) :: [] ∧
      decodeHost (.regWrite 0 0x1) = .command (.start 0x1)) ∧
    ({ State.reset with agenda := [.host (.outReady true)] }.agenda = .host (.outReady true) :: [] ∧
      Signal.outReady true = .outReady true) ∧
    ({ State.reset with agenda := [.host (.memRead (Config.regBase + (0x04 : BitVec 6).toNat) 4)] }.agenda =
        .host (.memRead (Config.regBase + (0x04 : BitVec 6).toNat) 4) :: [] ∧ (0x04 : BitVec 6).toNat % 4 = 0) ∧
    decodeHost (.regRead 2) = .badAccess ∧ decodeHost (.memRead (Config.regBase + 64) 4) = .elsewhere := by
  refine ⟨by decide, by decide, ⟨rfl, by decide⟩, by decide, ?_⟩
  simp [decodeHost, decodeAccess, Config.regBlockBytes]

theorem witness_ErrorIsTerminal :
    (raise .windowUnderflow (sym [])).phase = .error ∧
      ∃ t, step (raise .windowUnderflow (sym [])) = .next t := ⟨rfl, _, rfl⟩

theorem witness_InterruptIsALevel :
    Instr.wf (.start 0xD) = true ∧ Instr.wf (.softReset 0xA) = true ∧ (0x4 : Word).getLsbD 3 = false ∧
      (∃ t, exec (.start 0xD) (sym []) = .next t) ∧ (∃ t, exec (.softReset 0xA) (sym []) = .next t) ∧
      (∃ t, exec .hardReset (sym []) = .next t) ∧ ∃ t, exec (.regWrite 0 0x4) (sym []) = .next t :=
  ⟨rfl, rfl, rfl, ⟨_, rfl⟩, ⟨_, rfl⟩, ⟨_, rfl⟩, ⟨_, rfl⟩⟩

theorem witness_FixedTablesHaveTheirCodes :
    143 < 144 ∧ (144 ≤ 144 ∧ 144 < 256) ∧ (144 ≤ 255 ∧ 255 < 256) ∧ (256 ≤ 256 ∧ 279 < 280) ∧ (280 ≤ 280 ∧ 287 < 288) ∧
      31 < 32 := by decide

theorem witness_ReadBitsTakesTheNextBits :
    (16 ≤ 16 ∧ 1 ≤ (1 : BitVec 4).toNat ∧ (8 : BitVec 4).toNat ≤ 8 ∧ [true, false, true].length = 3 ∧
      (⟨0, 8, [0x05]⟩ : Cursor).bits = [true, false, true] ++ [false, false, false, false, false]) ∧
      (⟨0, 8, [0x05]⟩ : Cursor).bits.length < 16 := by decide

theorem witness_BlockHeaderStepReadsThreeBits :
    LegalValues (hdr [0x07]) ∧ (hdr [0x07]).agenda = [] ∧ (hdr [0x07]).phase = .blkHdr ∧
      (cursorOf (hdr [0x00])).bits = false :: false :: false :: [false, false, false, false, false] ∧
      (cursorOf (hdr [0x03])).bits = true :: true :: false :: [false, false, false, false, false] ∧
      (cursorOf (hdr [0x04])).bits = false :: false :: true :: [false, false, false, false, false] ∧
      (cursorOf (hdr [0x07])).bits = true :: true :: true :: [false, false, false, false, false] ∧
      (cursorOf (hdr [])).bits.length < 3 ∧ (hdr []).inEnd = false ∧ { hdr [] with inEnd := true }.inEnd = true :=
  ⟨(hdr_legal _).values, rfl, rfl, rfl, rfl, rfl, rfl, by decide, rfl, rfl⟩

theorem witness_FixedHeaderStepReadsTenBytes :
    LegalValues (gz [0x1F, 0x8B, 0x08, 0x1E, 1, 2, 3, 4, 5, 6]) ∧ (gz []).agenda = [] ∧ (gz []).phase = .gzFixed ∧
      (gz []).bitpos = 8 ∧
      (gz [0x1F, 0x8B, 0x08, 0x1E, 1, 2, 3, 4, 5, 6]).inBytes.drop 0 =
        0x1F :: 0x8B :: 0x08 :: 0x1E :: 1 :: 2 :: 3 :: 4 :: 5 :: 6 :: [] ∧
      ((gz [0x1F, 0x8C]).inBytes.drop 0 = 0x1F :: 0x8C :: [] ∧ ((0x1F : Byte) ≠ 0x1F ∨ (0x8C : Byte) ≠ 0x8B)) ∧
      ((gz [0x1F, 0x8B, 0x09]).inBytes.drop 0 = 0x1F :: 0x8B :: 0x09 :: [] ∧ (0x09 : Byte) ≠ 8) ∧
      (((gz [0x1E]).inBytes.drop 0).length < 10 ∧ ((gz [0x1E]).inBytes.drop 0).length < 2) ∧
      (((gz [0x1F, 0x8B]).inBytes.drop 0).length < 10 ∧ ((gz [0x1F, 0x8B]).inBytes.drop 0).take 3 <+: [0x1F, 0x8B, 0x08]) ∧
      (gz [0x1E]).inEnd = false ∧ { gz [0x1E] with inEnd := true }.inEnd = true :=
  ⟨(gz_legal _).values, by decide⟩

theorem witness_TrailerStepReadsEightBytes :
    LegalValues (trl [0x8B, 0x9E, 0xD9, 0xD3, 1, 0, 0, 0]) ∧ (trl []).agenda = [] ∧ (trl []).phase = .trailer ∧
      ((trl [0x8B, 0x9E, 0xD9, 0xD3, 1, 0, 0, 0]).inBytes.drop 0 =
        0x8B :: 0x9E :: 0xD9 :: 0xD3 :: 1 :: 0 :: 0 :: 0 :: []) ∧
      leU32 0x8A 0x9E 0xD9 0xD3 ≠ (trl []).crc ^^^ 0xFFFFFFFF ∧
      (leU32 0x8B 0x9E 0xD9 0xD3 = (trl []).crc ^^^ 0xFFFFFFFF ∧ leU32 2 0 0 0 ≠ (trl []).isize ∧
        leU32 1 0 0 0 = (trl []).isize) ∧
      ((trl [0x8A, 0, 0, 0, 0, 0, 0]).inBytes.drop 0).length < 8 ∧ (trl []).inEnd = false ∧
      { trl [] with inEnd := true }.inEnd = true :=
  ⟨(trl_legal _).values, by decide +kernel⟩

theorem witness_FixedBlockLiteralIsEmitted :
    LegalValues (sym [0xFD]) ∧ (sym [0xFD]).agenda = [] ∧ (sym [0xFD]).phase = .symbol ∧ (sym [0xFD]).tblFixed = true ∧
      ((0x8F : Byte).toNat < 144 ∧ (cursorOf (sym [0xFD])).bits = msbBits 8 (0b00110000 + (0x8F : Byte).toNat) ++ []) ∧
      (¬ (0x90 : Byte).toNat < 144 ∧ (cursorOf (sym [0x13, 0x00])).bits =
        msbBits 9 (0b110010000 + ((0x90 : Byte).toNat - 144)) ++ [false, false, false, false, false, false, false]) ∧
      (sym []).outReady = true ∧ { sym [] with outReady := false }.outReady = false :=
  ⟨(sym_legal _).values, by decide⟩

theorem witness_LengthDistancePairStartsTheCopy :
    (matchLengthOf .len257 = some 3 ∧ matchLengthOf (.len284 31) = some 258 ∧ matchLengthOf .len285 = some 258) ∧
      (matchDistanceOf .dist0 = some 1 ∧ matchDistanceOf (.dist29 8191) = some 32768) ∧
      (1 ≤ (trl []).hist.toNat ∧ 32768 ≤ { sym [] with hist := 32768 }.hist.toNat ∧ (sym []).hist.toNat < 1 ∧
        { sym [] with hist := 32767 }.hist.toNat < 32768) ∧
      ((sym []).matchLen = none ∧ Instr.d30.format = .dSym ∧ Instr.dist0.format = .dSym) := by decide +kernel

theorem witness_CopyStepCopiesOneByte :
    (cop.agenda = [] ∧ cop.phase = .copy ∧ cop.copyDist.toNat ≤ 32768) ∧ (cop.outReady = true ∧ cop.copyLen ≠ 1) ∧
      { cop with copyLen := 1 }.copyLen = 1 ∧ { cop with copyDist := 32768 }.copyDist.toNat ≤ 32768 ∧
      { cop with outReady := false }.outReady = false := by decide

theorem witness_OnlyIncompleteTablesRejectBits :
    oversubscribed [1] 7 = false ∧ 1 ≤ (8 : BitVec 4).toNat ∧ (8 : BitVec 4).toNat ≤ 8 ∧
      huffDecode (buildTable [1] 7) ⟨0, 8, [0xFF]⟩ = .ok none ⟨0xFF, 7, []⟩ := ⟨rfl, by decide, by decide, rfl⟩

theorem witness_BitsOfNoCodeAreRaised :
    (Legal (oneCl [0xFF]) ∧ (oneCl [0xFF]).phase = .dynLens ∧
      (cursorOf (oneCl [0xFF])).bits = List.replicate 7 true ++ [true] ∧
      ∀ c, hasCode (clLengths (oneCl [0xFF])) 7 c → ¬ codeBits (clLengths (oneCl [0xFF])) c <+: List.replicate 7 true) ∧
    (Legal (dynSym 0 [0xFF, 0xFF]) ∧ (dynSym 0 [0xFF, 0xFF]).phase = .symbol ∧
      (cursorOf (dynSym 0 [0xFF, 0xFF])).bits = List.replicate 15 true ++ [true] ∧
      ∀ l, hasCode (blockLlLengths (dynSym 0 [0xFF, 0xFF])) 15 l →
        ¬ codeBits (blockLlLengths (dynSym 0 [0xFF, 0xFF])) l <+: List.replicate 15 true) ∧
    (Legal (dynSym 1 [0xFF, 0xFF]) ∧ (dynSym 1 [0xFF, 0xFF]).phase = .symbol ∧
      hasCode (blockLlLengths (dynSym 1 [0xFF, 0xFF])) 15 257 ∧
      (cursorOf (dynSym 1 [0xFF, 0xFF])).bits =
        codeBits (blockLlLengths (dynSym 1 [0xFF, 0xFF])) 257 ++ ([] ++ (List.replicate 15 true ++ [])) ∧
      ∀ d, hasCode (blockDLengths (dynSym 1 [0xFF, 0xFF])) 15 d →
        ¬ codeBits (blockDLengths (dynSym 1 [0xFF, 0xFF])) d <+: List.replicate 15 true) :=
  ⟨⟨oneCl_legal _, rfl, rfl, no_code (by decide +kernel)⟩,
    ⟨dynSym_legal (.inl rfl) _, rfl, rfl, no_code (by decide +kernel)⟩,
    dynSym_legal (.inr rfl) _, rfl, by unfold hasCode; decide +kernel, by decide +kernel, no_code (by decide +kernel)⟩

theorem witness_DecodeAnswersExactlyTheCodes :
    oversubscribed [3, 3, 3, 3, 3, 2, 4, 4] 15 = false ∧ 1 ≤ (8 : BitVec 4).toNat ∧ (8 : BitVec 4).toNat ≤ 8 ∧
      huffDecode (buildTable [3, 3, 3, 3, 3, 2, 4, 4] 15) ⟨0, 8, [0x07]⟩ = .ok (some 6) ⟨0x07, 4, []⟩ :=
  ⟨rfl, by decide, by decide, rfl⟩

theorem witness_HostTransfersDecodeAsEncoded :
    ((Instr.start 0x5).wf = true ∧ (Instr.start 0x5).format = .host) ∧ (0x3C : BitVec 6).toNat % 4 = 0 ∧
      (([0x05, 0x00] : List Byte).length = 2 ∧ Config.regBase ≤ Config.regBase + 63 ∧
        Config.regBase + 63 < Config.regBase + 64 ∧ (2 ≠ 4 ∨ (Config.regBase + 63 - Config.regBase) % 4 ≠ 0)) ∧
      (([0x05, 0x00, 0x00, 0x00] : List Byte).length = 4 ∧ (4 ≠ 4 ∨ (Config.regBase + 2 - Config.regBase) % 4 ≠ 0)) ∧
      (Config.regBase + 64 < Config.regBase ∨ Config.regBase + 64 ≤ Config.regBase + 64) ∧
      decodeHost .rst = .command .hardReset := by
  refine ⟨by decide, by decide, ⟨rfl, by omega, by omega, by omega⟩, ⟨rfl, by omega⟩, by omega, by decide⟩

theorem witness_HostCannotChangeWhatIsDecoded :
    (Instr.pushByte 0x1F).wf = true ∧ (Instr.pushByte 0x1F).format = .host ∧ (∀ v, Instr.pushByte 0x1F ≠ .start v) ∧
      (∀ v, Instr.pushByte 0x1F ≠ .softReset v) ∧ Instr.pushByte 0x1F ≠ .hardReset ∧
      Instr.pushByte 0x1F ≠ .outAccept ∧ (gz []).inEnd = false ∧ ∃ t, exec (.pushByte 0x1F) (gz []) = .next t :=
  ⟨rfl, rfl, nofun, nofun, nofun, nofun, rfl, _, rfl⟩

theorem witness_ElementsWriteOnlyTheirFields :
    (Instr.lit 0x41).format ≠ .host ∧ (∃ t, exec (.lit 0x41) (sym []) = .next t ∧ t.phase ≠ .error) ∧
      emits .eob = false := by
  refine ⟨by decide, ⟨emit 0x41 (sym []), by rfl, by decide⟩, by decide⟩

theorem witness_StepDeliversAtMostOneByte : Legal (sym [0x8E]) ∧ ∃ t, engineStep (sym [0x8E]) = .next t := by
  exact ⟨sym_legal _, next_of_field (by decide +kernel)⟩

theorem witness_LegalStatesNeverFault : Legal cop ∧ Legal (gz []) ∧ Legal (trl []) := ⟨cop_legal, gz_legal _, trl_legal _⟩

theorem witness_StepKeepsLegalStates : Legal cop ∧ ∃ t, step cop = .next t := by
  exact ⟨cop_legal, next_of_field (by decide +kernel)⟩

theorem witness_StepKeepsTheAccounts : Legal cop ∧ Accounts cop ∧ ∃ t, step cop = .next t :=
  ⟨cop_legal, cop_accounts, witness_StepKeepsLegalStates.2⟩

theorem witness_DecodeInvertsEncode :
    Admits .blkHdr [.blkFixed true] ∧ 1 ≤ (5 : BitVec 4).toNat ∧ (5 : BitVec 4).toNat ≤ 8 ∧
      (byteElement .blkHdr = true → (5 : BitVec 4) = 8) ∧
      (elementStart .blkHdr ⟨0x60, 5, []⟩).bits = encode .blkHdr [.blkFixed true] ++ [] := by
  refine ⟨rfl, ?_⟩
  decide +kernel

theorem witness_EncodeSpellsWhatDecodeReads :
    soundTables .blkHdr ∧ 1 ≤ (5 : BitVec 4).toNat ∧ (5 : BitVec 4).toNat ≤ 8 ∧
      (byteElement .blkHdr = true → (5 : BitVec 4) = 8) ∧
      decode .blkHdr ⟨0x60, 5, []⟩ = .elem [.blkFixed true] ⟨0x60, 8, []⟩ := by
  refine ⟨trivial, ?_⟩
  decide +kernel

theorem witness_CopyDeliversTheMatch :
    Legal cop ∧ Accounts cop ∧ cop.agenda = [] ∧ cop.outReady = true ∧ cop.phase = .copy :=
  ⟨cop_legal, cop_accounts, rfl, rfl, rfl⟩

theorem witness_SessionEndsInDoneOrError :
    let s := { hdr [0x03, 0x00] with inEnd := true }
    Legal s ∧ s.agenda = [] ∧ s.outReady = true ∧ s.inEnd = true ∧ restPhase s.phase = false := by
  refine ⟨⟨{ (hdr_legal [0x03, 0x00]).values with }, ?_⟩, rfl, rfl, rfl, rfl⟩
  constructor <;> simp [hdr, State.reset, bytePhase, headerPhase, restPhase, hdr0Word]

theorem witness_EarlyBytesChangeNothing :
    Legal (sym [0x8E]) ∧ (sym [0x8E]).inEnd = false ∧ heldOnInput (sym [0x8E]) = false ∧
      ∃ t, engineStep (sym [0x8E]) = .next t :=
  ⟨sym_legal _, rfl, by decide +kernel, witness_StepDeliversAtMostOneByte.2⟩

end Sys2Proof.Tests
end

section
/-! PROOFS. What the instructions do, by their format: the symbols that share a rule are one case of it. The proofs that
go through every stream instruction go through these cases. -/

namespace Sys2Proof.Machine

theorem exec_clSym {i : Instr} (h : i.format = .clSym) :
    (∃ v, ∀ s, exec i s = .next (defineLen v s)) ∨ (∃ rep, i = .cl16 rep) ∨
      ∃ r, ∀ s, exec i s = .next (defineRun r 0 s) := by
  cases i <;> simp only [Instr.format, reduceCtorEq] at h
  case cl16 rep => exact .inr (.inl ⟨rep, rfl⟩)
  case cl17 rep => exact .inr (.inr ⟨_, fun _ => rfl⟩)
  case cl18 rep => exact .inr (.inr ⟨_, fun _ => rfl⟩)
  all_goals exact .inl ⟨_, fun _ => rfl⟩

theorem exec_llSym {i : Instr} (h : i.format = .llSym) :
    (∃ b, i = .lit b) ∨ i = .eob ∨ (∀ s, exec i s = .next (raiseCorrupt .llSymInvalid s)) ∨
      ∃ n, matchLengthOf i = some n := by
  cases i <;> simp only [Instr.format, reduceCtorEq] at h
  case lit b => exact .inl ⟨b, rfl⟩
  case eob => exact .inr (.inl rfl)
  case ll286 => exact .inr (.inr (.inl fun _ => rfl))
  case ll287 => exact .inr (.inr (.inl fun _ => rfl))
  all_goals simp [matchLengthOf, Instr.format, Instr.selector, lengthBase]

theorem exec_dSym {i : Instr} (h : i.format = .dSym) :
    (∃ base dx, 1 ≤ base ∧ ∀ s, exec i s = finishMatch base dx s) ∨ ∀ s, exec i s = rejectDistance s := by
  cases i <;> simp only [Instr.format, reduceCtorEq] at h
  case d30 => exact .inr fun _ => rfl
  case d31 => exact .inr fun _ => rfl
  all_goals exact .inl ⟨_, _, Nat.succ_pos _, fun _ => rfl⟩

/-- What a stream instruction does, one case a rule: the symbols that share a rule are one case (R350 to R356, R420 to
R427, R451 to R453, R520 to R523, R600 to R605, R620). -/
inductive StreamRule : Instr → (State → Host.Outcome State Fault Refusal) → Prop
  | gzFixed (flg : Byte) (mt : Word) (xfl os : Byte) : StreamRule (.gzFixed flg mt xfl os) (execGzFixed flg mt xfl os)
  | gzXlen (n : BitVec 16) : StreamRule (.gzXlen n) (execGzXlen n)
  | gzExtra (b : Byte) : StreamRule (.gzExtra b) (execGzExtra b)
  | gzName (b : Byte) : StreamRule (.gzName b) (execGzName b)
  | gzComment (b : Byte) : StreamRule (.gzComment b) (execGzComment b)
  | gzHcrc (f : BitVec 16) : StreamRule (.gzHcrc f) (execGzHcrc f)
  | blkStored (f : Bool) : StreamRule (.blkStored f) (execBlkStored f)
  | blkFixed (f : Bool) : StreamRule (.blkFixed f) (execBlkFixed f)
  | blkDynamic (f : Bool) : StreamRule (.blkDynamic f) (execBlkDynamic f)
  | blkReserved (f : Bool) : StreamRule (.blkReserved f) (execBlkReserved f)
  | storedLen (len nlen : BitVec 16) : StreamRule (.storedLen len nlen) (execStoredLen len nlen)
  | storedCopy (b : Byte) : StreamRule (.storedCopy b) (execStoredCopy b)
  | dynHdr (hl hd : BitVec 5) (hc : BitVec 4) : StreamRule (.dynHdr hl hd hc) (execDynHdr hl hd hc)
  | dynCllens (cll : List (BitVec 3)) : StreamRule (.dynCllens cll) (execDynCllens cll)
  | codeLength (i : Instr) (v : BitVec 4) (hi : i.format = .clSym) : StreamRule i fun s => .next (defineLen v s)
  | codeRepeat (rep : BitVec 2) : StreamRule (.cl16 rep) (execCl16 rep)
  | codeZeros (i : Instr) (r : Nat) (hi : i.format = .clSym) : StreamRule i fun s => .next (defineRun r 0 s)
  | literal (b : Byte) : StreamRule (.lit b) (execLit b)
  | endOfBlock : StreamRule .eob execEob
  | noLength (i : Instr) (hi : i.format = .llSym) : StreamRule i fun s => .next (raiseCorrupt .llSymInvalid s)
  | length (i : Instr) (n : BitVec 9) (hi : i.format = .llSym) :
    StreamRule i fun s => .next { s with matchLen := some n }
  | distance (i : Instr) (base dx : Nat) (hi : i.format = .dSym) : StreamRule i (finishMatch base dx)
  | noDistance (i : Instr) (hi : i.format = .dSym) : StreamRule i rejectDistance
  | trailer (crc isize : Word) : StreamRule (.gzTrailer crc isize) (execGzTrailer crc isize)

theorem symbol_rule {i : Instr} (h : i.format = .clSym ∨ i.format = .llSym ∨ i.format = .dSym) :
    StreamRule i (exec i) := by
  rcases h with h | h | h
  · rcases exec_clSym h with ⟨v, e⟩ | ⟨rep, rfl⟩ | ⟨r, e⟩
    · rw [funext e]; exact .codeLength i v h
    · exact .codeRepeat rep
    · rw [funext e]; exact .codeZeros i r h
  · rcases exec_llSym h with ⟨b, rfl⟩ | rfl | e | ⟨n, hn⟩
    · exact .literal b
    · exact .endOfBlock
    · rw [funext e]; exact .noLength i h
    · rw [funext (length_symbol_exec i n hn).2]; exact .length i _ h
  · rcases exec_dSym h with ⟨base, dx, -, e⟩ | e
    · rw [funext e]; exact .distance i base dx h
    · rw [funext e]; exact .noDistance i h

/-- Every stream instruction runs by its rule. -/
theorem exec_rule {i : Instr} (h : i.format ≠ .host) : StreamRule i (exec i) := by
  cases i
  case gzFixed => exact .gzFixed ..
  case gzXlen => exact .gzXlen _
  case gzExtra => exact .gzExtra _
  case gzName => exact .gzName _
  case gzComment => exact .gzComment _
  case gzHcrc => exact .gzHcrc _
  case blkStored => exact .blkStored _
  case blkFixed => exact .blkFixed _
  case blkDynamic => exact .blkDynamic _
  case blkReserved => exact .blkReserved _
  case storedLen => exact .storedLen ..
  case storedCopy => exact .storedCopy _
  case dynHdr => exact .dynHdr ..
  case dynCllens => exact .dynCllens _
  case gzTrailer => exact .trailer ..
  case start | softReset | regWrite | regRead | pushByte | endInput | outAccept | hardReset => exact absurd rfl h
  all_goals exact symbol_rule (by simp [Instr.format])

theorem shape_format {x : Expect} {is : List Instr} (h : Shape x is) : ∀ i ∈ is, i.format ≠ .host := by
  cases x with
  | gzFixed => obtain ⟨_, _, _, _, rfl⟩ := h; simp [Instr.format]
  | blkHdr => obtain ⟨_, rfl | rfl | rfl | rfl⟩ := h <;> simp [Instr.format]
  | storedLen | trailer => obtain ⟨_, _, rfl⟩ := h; simp [Instr.format]
  | dynHdr => obtain ⟨_, _, _, rfl⟩ := h; simp [Instr.format]
  | dynCllens => obtain ⟨_, rfl, -⟩ := h; simp [Instr.format]
  | clSym | dSym => obtain ⟨_, rfl, hi⟩ := h; simp [hi]
  | llSym => obtain ⟨_, rfl, hi, -⟩ | ⟨_, _, rfl, hi, -, hj⟩ := h <;> simp [*]
  | _ => obtain ⟨_, rfl⟩ := h; simp [Instr.format]

theorem execAll_one (i : Instr) (s : State) : execAll [i] s = exec i s := by
  simp only [execAll]
  cases exec i s <;> rfl

theorem execAll_two {i j : Instr} {s t : State} (h : exec i s = .next t) : execAll [i, j] s = exec j t := by
  rw [← execAll_one, execAll, h]

end Sys2Proof.Machine
end

section
/-! PROOFS. The turns: what a legal state can fetch, the engine's step by what is fetched (10_state.md R99), and the
commands the host's transfers decode to. -/

namespace Sys2Proof.Machine

theorem expected_dynCllens {s : State} {n : Nat} (h : expected s = some (.dynCllens n)) :
    s.phase = .dynCllens ∧ n = s.hclen.toNat := by
  unfold expected at h
  cases hp : s.phase <;> simp only [hp, Option.some.injEq, reduceCtorEq] at h
  case dynCllens => exact ⟨rfl, by simpa using h.symm⟩
  case symbol => split at h <;> simp at h

/-- A phase that reads an element can read it: whole bytes at a byte boundary, and at least one CLL field (R308,
R421). -/
theorem Legal.readable {s : State} (h : Legal s) {x : Expect} (hx : expected s = some x) :
    (byteElement x = true → s.bitpos = 8) ∧ x ≠ .dynCllens 0 := by
  refine ⟨fun hb => h.ready.aligned (byteElement_expected hx ▸ hb), ?_⟩
  rintro rfl
  obtain ⟨hp, hn⟩ := expected_dynCllens hx
  exact (h.ready.counts (.inl hp)).2.2 (BitVec.eq_of_toNat_eq hn.symm)

theorem Legal.fetch_says {s : State} (h : Legal s) {x : Expect} (hx : expected s = some x) :
    FetchSays x s (fetch x s) :=
  Machine.fetch_says h.values.placed (h.readable hx).1 (h.readable hx).2

theorem Legal.decode_says {s : State} (h : Legal s) {x : Expect} (hx : expected s = some x) :
    DecodedSays (endsAligned x) (Spelled x) (MayRaise x) (MayCapture x) (elementStart x (cursorOf s))
      (decode x (cursorOf s)) :=
  Sys2Proof.decode_says x (elementStart_fine x h.values) (h.readable hx).1 (h.readable hx).2

section
variable {s : State} {x : Expect} (hx : expected s = some x)
include hx

/-- The engine's turn where an element is read (R99). -/
theorem engineStep_eq_runElement : engineStep s = runElement x s := by
  have hp : s.phase ≠ .copy := fun e => by simp [expected, e] at hx
  simp [engineStep, hp, hx]

theorem heldOnInput_eq : heldOnInput s = true ↔ fetch x s = .hold := by
  simp only [heldOnInput, hx]
  cases fetch x s <;> simp

/-- An element is read and the output port does not hold it. -/
theorem engineStep_of_got {t : State} {is : List Instr} (hf : fetch x s = .got is t)
    (ho : (is.any emits && !s.outReady) = false) : engineStep s = execAll is t := by
  simp [engineStep_eq_runElement hx, runElement, hf, ho]

/-- The step raises an error where its element is read. -/
theorem engineStep_of_raised {t : State} (hf : fetch x s = .raised t) :
    heldOnInput s = false ∧ engineStep s = .next t := by
  refine ⟨Bool.eq_false_iff.mpr fun h => ?_, by rw [engineStep_eq_runElement hx, runElement, hf]⟩
  rw [heldOnInput_eq hx, hf] at h
  cases h

end

theorem fetch_got {x : Expect} {s t : State} {is : List Instr} (h : fetch x s = .got is t) :
    ∃ c, decode x (cursorOf s) = .elem is c ∧ t = advanceTo c s := by
  unfold fetch at h
  split at h
  case h_1 is' c e => cases h; exact ⟨c, e, rfl⟩
  case h_3 => split at h <;> cases h
  all_goals cases h

theorem countStored_outReady (s : State) : (countStored s).outReady = s.outReady := by
  unfold countStored; split <;> rfl

/-- The byte offered is the one the emitting step would deliver (R662). -/
theorem engineStep_of_offered {s t : State} {b : Byte} (h : offered s = some (b, t)) (ho : s.outReady = true) :
    engineStep s = .next (emit b t) := by
  unfold offered at h
  split at h
  case h_1 hp =>
    cases h
    rw [engineStep, if_pos hp, copyStep, emitOrHold, if_pos (show (countCopy s).outReady = true from ho)]
  case h_4 => cases h
  all_goals
    rename_i hp
    split at h <;> cases h
    all_goals
      rename_i hf
      obtain ⟨x, hx, hf⟩ := Option.map_eq_some_iff.mp hf
      obtain ⟨c, -, rfl⟩ := fetch_got hf
      rw [engineStep_of_got hx hf (by simp [ho]), execAll_one]
      refine if_pos ?_
      first | exact ho | exact (countStored_outReady _).trans ho

/-- OutAccept (R662) is the engine's step where a byte is offered and taken, and nothing otherwise. -/
theorem execOutAccept_cases (s : State) : execOutAccept s = .next s ∨ execOutAccept s = engineStep s := by
  unfold execOutAccept
  split
  · rename_i b t h
    split_ifs with ho
    · exact .inr (engineStep_of_offered h ho).symm
    · exact .inl rfl
  · exact .inl rfl

theorem regWriteInstr_format (off : BitVec 6) (v : Word) : (regWriteInstr off v).format = .host := by
  unfold regWriteInstr; split_ifs <;> rfl

theorem decodeOffset_format {off : BitVec 6} {i j : Instr} (hi : i.format = .host)
    (h : decodeOffset off i = .command j) : j.format = .host := by
  unfold decodeOffset at h
  split at h
  · cases h; exact hi
  · cases h

theorem decodeAccess_format {base addr n : Nat} {f : BitVec 6 → Instr} {j : Instr} (hf : ∀ off, (f off).format = .host)
    (h : decodeAccess base addr n f = .command j) : j.format = .host := by
  unfold decodeAccess at h
  split_ifs at h
  cases h
  exact hf _

/-- The transfers decode to the host's commands (R650). -/
theorem decodeHost_format {g : Signal} {i : Instr} (h : decodeHost g = .command i) : i.format = .host := by
  unfold decodeHost at h
  cases g with
  | rst | inByte b | inEnd | outTransfer => cases h; rfl
  | regWrite off v => exact decodeOffset_format (regWriteInstr_format off v) h
  | regRead off => exact decodeOffset_format rfl h
  | memWrite addr data => exact decodeAccess_format (fun off => regWriteInstr_format off _) h
  | memRead addr n => exact decodeAccess_format (fun _ => rfl) h
  | outReady b => cases h

end Sys2Proof.Machine
end

section
/-! PROOFS. Every turn keeps a legal state (10_state.md R55): one lemma an operation, an element, a command and a
turn. -/

namespace Sys2Proof.Machine

/-! ### The host's operations -/

/-- A legal state stays legal whatever the host's lines, CTRL and the model's own inputs are: no legal value and no
phase speaks of them. -/
theorem Legal.withLines {s : State} (h : Legal s) (raw irqEn rdy flow : Bool) (rdata : Word) (n : Nat)
    (turns : List Turn) :
    Legal { s with
      ctrlRaw := raw, ctrlIrqEn := irqEn, outReady := rdy, inFlow := flow, regRdata := rdata, draws := n,
      agenda := turns } where
  values := { h.values with }
  ready := { h.ready with
    tables := fun hp => (h.ready.tables hp).imp id fun t => { t with }
    idle := fun hp => by rw [h.ready.idle hp]; rfl }

/-- SoftReset (R654). -/
theorem legal_resetSession {s : State} (h : Memory.wf s.window) : Legal (resetSession s) where
  values := by
    constructor
    case window => exact h
    all_goals simp
  ready := by
    constructor
    case idle => exact fun _ => rfl
    all_goals simp [headerPhase, restPhase]

/-- Start (R653). -/
theorem legal_startSession {s : State} (h : Memory.wf s.window) : Legal (startSession s) where
  values := { (legal_resetSession h).values with }
  ready := by
    cases hr : s.ctrlRaw <;> constructor <;> simp [startPhase, hr, bytePhase, headerPhase, restPhase, hdr0Word]

/-- Hardware reset (R750) is the reset of a session with CTRL and the window cleared. -/
theorem legal_hardwareReset (s : State) : Legal (hardwareReset s) :=
  legal_resetSession (s := { s with ctrlRaw := false, ctrlIrqEn := false, window := [], wEpoch := s.wEpoch + 1 })
    reset_window_wf

theorem legal_startCommand {s : State} (h : Legal s) : Legal (startCommand s) := by
  unfold startCommand
  split
  · exact h
  · exact legal_startSession h.values.window

/-- A write of CTRL (R652): the fields, then SOFT_RESET, then START. -/
theorem legal_writeCtrl {s : State} (h : Legal s) (v : Word) : Legal (writeCtrl v s) := by
  have fields : Legal (writeCtrlFields v s) := h.withLines _ _ _ _ _ _ _
  have reset : Legal (resetSession (writeCtrlFields v s)) := legal_resetSession h.values.window
  simp only [writeCtrl]
  split_ifs
  · exact legal_startCommand reset
  · exact legal_startCommand fields
  · exact reset
  · exact fields

/-- A running session has a step rule to come. -/
theorem phase_ne_idle_of_busy {s : State} (h : busy s = true) : s.phase ≠ .idle := fun hp => by simp [busy, hp] at h

/-- Bytes presented while a session runs (R655). -/
theorem legal_present {s : State} (h : Legal s) (hi : s.phase ≠ .idle) (l : List Byte) :
    Legal { s with inBytes := s.inBytes ++ l } where
  values := { h.values with
    ip := by have := h.values.ip; simp; omega
    bitbuf := fun h8 => by
      obtain ⟨h1, hb⟩ := h.values.bitbuf h8
      exact ⟨h1, (List.getElem?_append_left (List.getElem?_eq_some_iff.mp hb).1).trans hb⟩ }
  ready := { h.ready with
    tables := fun hp => (h.ready.tables hp).imp id fun t => { t with }
    idle := fun hp => absurd hp hi }

/-- The end of input while a session runs (R657). -/
theorem legal_endInput {s : State} (h : Legal s) (hi : s.phase ≠ .idle) : Legal { s with inEnd := true } where
  values := { h.values with }
  ready := { h.ready with
    tables := fun hp => (h.ready.tables hp).imp id fun t => { t with }
    idle := fun hp => absurd hp hi }

/-! ### The operations of the step rules -/

/-- Every next state an outcome can be is legal. -/
def KeepsLegal (o : Host.Outcome State Fault Refusal) : Prop := ∀ t, o = .next t → Legal t

theorem keepsLegal_next {s : State} (h : Legal s) : KeepsLegal (.next s) := fun t ht => by
  cases ht; exact h

theorem keepsLegal_refused (r : Refusal) : KeepsLegal (.refused r) := fun _ ht => nomatch ht

theorem keepsLegal_emitOrHold {b : Byte} {u s : State} (hu : Legal u) (hi : u.phase ≠ .idle) (hs : Legal s) :
    KeepsLegal (emitOrHold b u s) := by
  unfold emitOrHold
  split
  · exact keepsLegal_next (legal_emit b hu hi)
  · exact keepsLegal_next hs

/-- What a running session's inflate phases take for granted, whatever the phase: fields their steps do not touch. -/
structure Carried (s : State) : Prop where
  noError : s.errCode = 0
  raw : s.modeRaw = true → hdr0Word s = 0 ∧ s.hdrMtime = 0 ∧ s.warnFlg = false ∧ s.trlCrc = 0 ∧ s.trlIsize = 0
  hcrc : s.hdrFlg.getLsbD 1 = false → s.hcrcField = 0 ∧ s.hcrcCalc = 0 ∧ s.warnHcrc = false
  trailer : s.trlCrc = 0 ∧ s.trlIsize = 0

theorem Legal.carried {s : State} (h : Legal s) (hr : restPhase s.phase = false) : Carried s where
  noError := h.ready.error.mpr fun hp => by simp [hp, restPhase] at hr
  raw := fun hm => (h.ready.raw hm).2.2
  hcrc := fun hf => h.ready.hcrcUnread (.inl hf)
  trailer := h.ready.trlUnread hr

/-- What an inflate phase needs when it is entered, beside what the session carries. -/
theorem Carried.ready {s : State} (h : Carried s) (hp : inflatePhase s.phase = true)
    (stored : s.phase = .storedCopy → s.bitpos = 8 ∧ s.storedRem ≠ 0 := by simp)
    (counts : s.phase = .dynCllens ∨ s.phase = .dynLens →
      (257 ≤ s.hlit.toNat ∧ s.hlit.toNat ≤ 286) ∧ (1 ≤ s.hdist.toNat ∧ s.hdist.toNat ≤ 30) ∧ s.hclen ≠ 0 := by simp)
    (lengths : s.phase = .dynLens →
      s.idx.toNat < lensTotal s ∧ oversubscribed (clLengths s) Config.maxBitsCL = false := by simp)
    (tables : s.phase = .symbol ∨ s.phase = .copy → s.tblFixed = true ∨ DynTables s := by simp)
    (copying : s.phase = .copy →
      1 ≤ s.copyLen.toNat ∧ 1 ≤ s.copyDist.toNat ∧ s.copyDist.toNat ≤ s.hist.toNat := by simp) : PhaseReady s := by
  have other : ∀ p, inflatePhase p = false → s.phase ≠ p := fun p h0 e => by simp [e, h0] at hp
  have noHeader : headerPhase s.phase = false := by cases e : s.phase <;> simp_all [inflatePhase, headerPhase]
  exact
    { error := ⟨fun _ => other _ rfl, fun _ => h.noError⟩
      aligned := fun ha => (stored (by cases e : s.phase <;> simp_all [inflatePhase, bytePhase])).1
      raw := fun hm => ⟨noHeader, other _ rfl, h.raw hm⟩
      extraPresent := fun e => (e.elim (other _ rfl) (other _ rfl)).elim
      namePresent := fun e => absurd e (other _ rfl)
      commentPresent := fun e => absurd e (other _ rfl)
      hcrcPresent := fun e => absurd e (other _ rfl)
      hcrcUnread := fun e => h.hcrc (by simpa [noHeader] using e)
      trlUnread := fun _ => h.trailer
      extraOwed := fun e => absurd e (other _ rfl)
      storedOwed := fun e => (stored e).2
      counts := counts
      lengths := lengths
      tables := tables
      copying := copying
      final := fun e => (e.elim (other _ rfl) (other _ rfl)).elim
      idle := fun e => absurd e (other _ rfl) }

section
variable {s : State} (h : Legal s)
include h

/-- The two counters of owed bytes are read in their own phases only. -/
theorem legal_owed (hi : s.phase ≠ .idle) {x r : BitVec 16} (hx : s.phase = .gzExtra → x ≠ 0)
    (hr : s.phase = .storedCopy → r ≠ 0) : Legal { s with xlenRem := x, storedRem := r } where
  values := { h.values with }
  ready := { h.ready with
    extraOwed := hx
    storedOwed := hr
    tables := fun hp => (h.ready.tables hp).imp id fun t => { t with }
    idle := fun hp => absurd hp hi }

/-- GZ_XLEN with a length (R601). -/
theorem legal_enterExtra (hp : s.phase = .gzXlen) {n : BitVec 16} (hn : n ≠ 0) :
    Legal { s with xlenRem := n, phase := .gzExtra } where
  values := { h.values with }
  ready := { h.ready with
    error := ⟨fun _ => by simp, fun _ => h.ready.error.mpr (by simp [hp])⟩
    aligned := fun _ => h.ready.aligned (by simp [hp, bytePhase])
    raw := fun hm => absurd (h.ready.raw hm).1 (by simp [hp, headerPhase])
    extraPresent := fun _ => h.ready.extraPresent (.inl hp)
    namePresent := by simp
    commentPresent := by simp
    hcrcPresent := by simp
    hcrcUnread := fun _ => h.ready.hcrcUnread (.inr (by simp [hp, headerPhase]))
    trlUnread := fun _ => h.ready.trlUnread (by simp [hp, restPhase])
    extraOwed := fun _ => hn
    storedOwed := by simp
    counts := by simp
    lengths := by simp
    tables := by simp
    copying := by simp
    final := by simp
    idle := by simp }

/-- GZ_HCRC (R605): the field is present, so its two parts may hold anything. -/
theorem legal_hcrcRead (hp : s.phase = .gzHcrc) (f c : BitVec 16) (w : Bool) :
    Legal { s with hcrcField := f, hcrcCalc := c, warnHcrc := w, phase := .blkHdr } := by
  have carried := h.carried (by simp [hp, restPhase])
  refine ⟨{ h.values with }, Carried.ready { carried with hcrc := fun hf => ?_ } rfl⟩
  exact absurd ((h.ready.hcrcPresent hp).symm.trans hf) (by decide)

/-- A block header (R350 to R353) that leads to a block of its type. -/
theorem legal_blockHeader (hp : s.phase = .blkHdr) (f fixed : Bool) (ty : BitVec 2) {p : Phase}
    (hp' : p = .storedLen ∨ p = .dynHdr ∨ p = .symbol ∧ fixed = true) :
    Legal { s with bfinal := f, btype := ty, tblFixed := fixed, phase := p } := by
  have carried := h.carried (by simp [hp, restPhase])
  refine ⟨{ h.values with }, ?_⟩
  rcases hp' with rfl | rfl | ⟨rfl, rfl⟩
  · exact Carried.ready { carried with } rfl
  · exact Carried.ready { carried with } rfl
  · exact Carried.ready { carried with } rfl (tables := fun _ => .inl rfl)

/-- STORED_LEN with data to come (R355). -/
theorem legal_enterStored (hp : s.phase = .storedLen) (h8 : s.bitpos = 8) {n : BitVec 16} (hn : n ≠ 0) :
    Legal { s with storedRem := n, phase := .storedCopy } :=
  ⟨{ h.values with },
    Carried.ready { h.carried (by simp [hp, restPhase]) with } rfl (stored := fun _ => ⟨h8, hn⟩)⟩

/-- STORED_COPY up to its Emit (R356). -/
theorem legal_countStored (hp : s.phase = .storedCopy) : Legal (countStored s) ∧ (countStored s).phase ≠ .idle := by
  unfold countStored
  split
  · have ends : endPhase s ≠ .storedCopy ∧ endPhase s ≠ .gzExtra ∧ endPhase s ≠ .idle := by
      unfold endPhase; split_ifs <;> simp
    obtain ⟨hs, hx, hi⟩ := ends
    exact ⟨legal_owed (s := endOfBlock s) (legal_endOfBlock h (.inr (.inl hp))) hi (x := s.xlenRem)
      (fun e => absurd e hx) fun e => absurd e hs, hi⟩
  · rename_i hn
    exact ⟨legal_owed h (by simp [hp]) (x := s.xlenRem) (fun e => by simp [hp] at e) fun _ => hn, by simp [hp]⟩

/-- COPY up to its Emit (R555). -/
theorem legal_countCopy (hp : s.phase = .copy) : Legal (countCopy s) ∧ (countCopy s).phase ≠ .idle := by
  obtain ⟨hl, hd, hh⟩ := h.ready.copying hp
  have carried := h.carried (by simp [hp, restPhase])
  have hsub : (s.copyLen - 1).toNat = s.copyLen.toNat - 1 := by rw [BitVec.toNat_sub]; simp; omega
  have hlen : (s.copyLen - 1).toNat ≤ 258 := by have := h.values.copyLen; omega
  have tables : s.tblFixed = true ∨ DynTables (countCopy s) :=
    (h.ready.tables (.inr hp)).imp id fun t => { t with }
  by_cases h0 : s.copyLen - 1 = 0
  · have e : (countCopy s).phase = .symbol := by rw [countCopy_phase, if_pos h0]
    refine ⟨⟨{ h.values with copyLen := hlen }, Carried.ready { carried with } (by rw [e]; rfl)
      (by rw [e]; simp) (by rw [e]; simp) (by rw [e]; simp) (fun _ => tables) (by rw [e]; simp)⟩, by rw [e]; simp⟩
  · have e : (countCopy s).phase = .copy := by rw [countCopy_phase, if_neg h0, hp]
    have owed : 1 ≤ (s.copyLen - 1).toNat :=
      Nat.one_le_iff_ne_zero.mpr fun z => h0 (BitVec.eq_of_toNat_eq z)
    refine ⟨⟨{ h.values with copyLen := hlen }, Carried.ready { carried with } (by rw [e]; rfl)
      (by rw [e]; simp) (by rw [e]; simp) (by rw [e]; simp) (fun _ => tables) fun _ => ⟨owed, hd, hh⟩⟩, by rw [e]; simp⟩

end

/-! ### The elements -/

theorem hlitCount_toNat (v : BitVec 5) : (hlitCount v).toNat = v.toNat + 257 := by
  have := v.isLt
  simp [hlitCount]; omega

theorem hdistCount_toNat (v : BitVec 5) : (hdistCount v).toNat = v.toNat + 1 := by
  have := v.isLt
  simp [hdistCount]; omega

theorem hclenCount_toNat (v : BitVec 4) : (hclenCount v).toNat = v.toNat + 4 := by
  have := v.isLt
  simp [hclenCount]; omega

section
variable {s : State} (h : Legal s)
include h

/-- DYN_HDR (R420): the counts are in range where the phase moves on. -/
theorem keepsLegal_dynHdr (hp : s.phase = .dynHdr) (hl hd : BitVec 5) (hc : BitVec 4) :
    KeepsLegal (exec (.dynHdr hl hd hc) s) := by
  have rl : 257 ≤ (hlitCount hl).toNat ∧ (hlitCount hl).toNat ≤ 288 := by
    have := hl.isLt; rw [hlitCount_toNat]; omega
  have rd : 1 ≤ (hdistCount hd).toNat ∧ (hdistCount hd).toNat ≤ 32 := by
    have := hd.isLt; rw [hdistCount_toNat]; omega
  have rc : 4 ≤ (hclenCount hc).toNat ∧ (hclenCount hc).toNat ≤ 19 := by
    have := hc.isLt; rw [hclenCount_toNat]; omega
  have carried := h.carried (by simp [hp, restPhase])
  have values : LegalValues { s with hlit := hlitCount hl, hdist := hdistCount hd, hclen := hclenCount hc } :=
    { h.values with hlit := .inr rl, hdist := rd.2, hclen := .inr rc }
  refine keepsLegal_next ?_
  split
  · exact legal_raise _ values carried.raw carried.hcrc
  split
  · exact legal_raise _ values carried.raw carried.hcrc
  · rename_i hlFits hdFits
    have notZero : hclenCount hc ≠ 0 := fun e => by simp [e] at rc
    exact ⟨{ values with }, Carried.ready { carried with } rfl
      (counts := fun _ => ⟨⟨rl.1, Nat.not_lt.mp hlFits⟩, ⟨rd.1, Nat.not_lt.mp hdFits⟩, notZero⟩)⟩

/-- DYN_CLLENS (R421). -/
theorem keepsLegal_dynCllens (hp : s.phase = .dynCllens) (cll : List (BitVec 3)) :
    KeepsLegal (exec (.dynCllens cll) s) := by
  have carried := h.carried (by simp [hp, restPhase])
  obtain ⟨hl, hd, hc⟩ := h.ready.counts (.inl hp)
  refine keepsLegal_next ?_
  dsimp only
  split_ifs with hover
  · exact legal_raise _ { h.values with } carried.raw carried.hcrc
  · refine ⟨{ h.values with idx := by simp }, Carried.ready { carried with } rfl
      (counts := fun _ => ⟨hl, hd, hc⟩) (lengths := fun _ => ⟨?_, Bool.eq_false_of_not_eq_true hover⟩)⟩
    change (0 : BitVec 9).toNat < s.hlit.toNat + s.hdist.toNat
    simp; omega

/-- The trailer (R620): the fields are recorded, then compared. -/
theorem keepsLegal_trailer (hp : s.phase = .trailer) (crc isize : Word) :
    KeepsLegal (exec (.gzTrailer crc isize) s) := by
  have carried := h.carried (by simp [hp, restPhase])
  have gzip : ¬ s.modeRaw = true := fun hm => (h.ready.raw hm).2.1 hp
  have raised : ∀ e, Legal (raise e (captureTrailer crc isize s)) := fun e =>
    legal_raise e { h.values with } (fun hm => absurd hm gzip) carried.hcrc
  refine keepsLegal_next ?_
  split_ifs
  · exact raised _
  · exact raised _
  · refine ⟨{ h.values with }, ?_⟩
    constructor
    case error => exact ⟨fun _ => by simp, fun _ => carried.noError⟩
    case raw => exact fun hm => absurd hm gzip
    case hcrcUnread => exact fun e => carried.hcrc (e.resolve_right (by simp [headerPhase]))
    case final => exact fun _ => h.ready.final (.inl hp)
    all_goals simp [bytePhase, restPhase]

/-- GZ_FIXED (R600): the fields are captured, then the next header field follows. -/
theorem keepsLegal_gzFixed (hp : s.phase = .gzFixed) (flg xfl os : Byte) (mt : Word) :
    KeepsLegal (exec (.gzFixed flg mt xfl os) s) := by
  have h8 := h.ready.aligned (by simp [hp, bytePhase])
  exact keepsLegal_next (legal_nextHeader (legal_gzFixed h hp h8 ..) _ (by simp [hp, headerPhase]) h8)

/-- GZ_XLEN (R601). -/
theorem keepsLegal_gzXlen (hp : s.phase = .gzXlen) (n : BitVec 16) : KeepsLegal (exec (.gzXlen n) s) := by
  refine keepsLegal_next ?_
  split_ifs with hn
  · exact legal_nextHeader h _ (by simp [hp, headerPhase]) (h.ready.aligned (by simp [hp, bytePhase]))
  · exact legal_enterExtra h hp hn

/-- GZ_EXTRA (R602): the last byte owed ends the field. -/
theorem keepsLegal_gzExtra (hp : s.phase = .gzExtra) (b : Byte) : KeepsLegal (exec (.gzExtra b) s) := by
  refine keepsLegal_next ?_
  split_ifs with hn
  · have next := legal_nextHeader h .extra (by simp [hp, headerPhase]) (h.ready.aligned (by simp [hp, bytePhase]))
    have leaves : nextHeaderPhase .extra s.hdrFlg ≠ .idle ∧ nextHeaderPhase .extra s.hdrFlg ≠ .gzExtra ∧
        nextHeaderPhase .extra s.hdrFlg ≠ .storedCopy := by
      rcases nextHeaderPhase_cases .extra s.hdrFlg with ⟨e, -⟩ | ⟨e, -⟩ | ⟨e, -⟩ | ⟨e, -⟩ | ⟨e, -⟩ <;> simp [e]
    obtain ⟨hi, hx, hs⟩ := leaves
    exact legal_owed (s := nextHeaderField .extra s) next hi (x := s.xlenRem - 1) (fun e => absurd e hx)
      (r := s.storedRem) fun e => absurd e hs
  · exact legal_owed h (by simp [hp]) (fun _ => hn) (r := s.storedRem) fun e => by simp [hp] at e

/-- GZ_NAME and GZ_COMMENT (R603, R604): the byte 0 ends the field. -/
theorem legal_endText (hp : s.phase = .gzName ∨ s.phase = .gzComment) (after : HeaderField) (b : Byte) :
    Legal (if b = 0 then nextHeaderField after s else s) := by
  split_ifs
  · exact legal_nextHeader h _ (by rcases hp with hp | hp <;> simp [hp, headerPhase])
      (h.ready.aligned (by rcases hp with hp | hp <;> simp [hp, bytePhase]))
  · exact h

/-- STORED_LEN (R355) from a byte boundary, where its ALIGN left it. -/
theorem keepsLegal_storedLen (hp : s.phase = .storedLen) (h8 : s.bitpos = 8) (len nlen : BitVec 16) :
    KeepsLegal (exec (.storedLen len nlen) s) := by
  refine keepsLegal_next ?_
  split_ifs with _ hn
  · exact legal_raise_running _ h
  · exact legal_endOfBlock h (.inl hp)
  · exact legal_enterStored h hp h8 hn

/-- Each block type leads to its phase (R351 to R354). -/
theorem keepsLegal_block (hp : s.phase = .blkHdr) {f : Bool} {i : Instr}
    (hi : i = .blkStored f ∨ i = .blkFixed f ∨ i = .blkDynamic f ∨ i = .blkReserved f) : KeepsLegal (exec i s) := by
  have carried := h.carried (by simp [hp, restPhase])
  rcases hi with rfl | rfl | rfl | rfl
  · exact keepsLegal_next (legal_blockHeader h hp f s.tblFixed 0 (.inl rfl))
  · exact keepsLegal_next (legal_blockHeader h hp f true 1 (.inr (.inr ⟨rfl, rfl⟩)))
  · exact keepsLegal_next (legal_blockHeader h hp f s.tblFixed 2 (.inr (.inl rfl)))
  · exact keepsLegal_next (legal_raise _ { h.values with } carried.raw carried.hcrc)

/-- The code-length symbols (R423 to R426). -/
theorem keepsLegal_clSym (hp : s.phase = .dynLens) {i : Instr} (hi : i.format = .clSym) : KeepsLegal (exec i s) := by
  rcases exec_clSym hi with ⟨v, e⟩ | ⟨rep, rfl⟩ | ⟨r, e⟩
  · rw [e]; exact keepsLegal_next (legal_defineLen h hp v)
  · refine keepsLegal_next ?_
    split_ifs
    · exact legal_raise_running _ h
    · exact legal_defineRun h hp _ _
  · rw [e]; exact keepsLegal_next (legal_defineRun h hp _ _)

/-- The literal/length symbols that stand alone (R451, R452, R520, R521). -/
theorem keepsLegal_llSym (hp : s.phase = .symbol) {i : Instr} (hi : i.format = .llSym) (hn : matchLengthOf i = none) :
    KeepsLegal (exec i s) := by
  rcases exec_llSym hi with ⟨b, rfl⟩ | rfl | e | ⟨n, e⟩
  · exact keepsLegal_emitOrHold h (by simp [hp]) h
  · exact keepsLegal_next (legal_endOfBlock h (.inr (.inr hp)))
  · rw [e]; exact keepsLegal_next (legal_raise_running _ h)
  · simp [hn] at e

/-- A distance symbol on the match length of the same step (R453). -/
theorem keepsLegal_dSym (hp : s.phase = .symbol) {j : Instr} (hj : j.format = .dSym) {len : BitVec 9}
    (hl : 1 ≤ len.toNat ∧ len.toNat ≤ 258) : KeepsLegal (exec j { s with matchLen := some len }) := by
  rcases exec_dSym hj with ⟨base, dx, hb, e⟩ | e
  · rw [e]; exact keepsLegal_next (legal_startCopy h hp len _ hl (by unfold matchDistance; omega))
  · rw [e]; exact keepsLegal_next (legal_raise_running (s := s) _ h)

end

/-- A length symbol and its distance symbol (R453). -/
theorem keepsLegal_lenDist {s : State} (h : Legal s) (hp : s.phase = .symbol) {i j : Instr}
    (hi : matchLengthOf i ≠ none) (hj : j.format = .dSym) : KeepsLegal (execAll [i, j] s) := by
  obtain ⟨n, hn⟩ := Option.ne_none_iff_exists'.mp hi
  obtain ⟨range, e⟩ := length_symbol_exec i n hn
  rw [execAll_two (e s)]
  exact keepsLegal_dSym h hp hj (by simp; omega)

/-- The instructions of the element a phase reads keep a legal state that stands after the element's bits. -/
theorem keepsLegal_execAll {s : State} (h : Legal s) {x : Expect} (hx : expected s = some x)
    (h8 : endsAligned x = true → s.bitpos = 8) {is : List Instr} (hs : Shape x is) : KeepsLegal (execAll is s) := by
  have one : ∀ i, is = [i] → KeepsLegal (exec i s) → KeepsLegal (execAll is s) := fun i e hk => by
    rw [e, execAll_one]; exact hk
  cases hp : s.phase with
  | idle | copy | done | error => simp [expected, hp] at hx
  | gzFixed =>
    obtain rfl : .gzFixed = x := by simpa [expected, hp] using hx
    obtain ⟨flg, mt, xfl, os, e⟩ := hs
    exact one _ e (keepsLegal_gzFixed h hp flg xfl os mt)
  | gzXlen =>
    obtain rfl : .gzXlen = x := by simpa [expected, hp] using hx
    obtain ⟨v, e⟩ := hs
    exact one _ e (keepsLegal_gzXlen h hp v)
  | gzExtra =>
    obtain rfl : .gzExtra = x := by simpa [expected, hp] using hx
    obtain ⟨b, e⟩ := hs
    exact one _ e (keepsLegal_gzExtra h hp b)
  | gzName =>
    obtain rfl : .gzName = x := by simpa [expected, hp] using hx
    obtain ⟨b, e⟩ := hs
    exact one _ e (keepsLegal_next (legal_endText h (.inl hp) _ b))
  | gzComment =>
    obtain rfl : .gzComment = x := by simpa [expected, hp] using hx
    obtain ⟨b, e⟩ := hs
    exact one _ e (keepsLegal_next (legal_endText h (.inr hp) _ b))
  | gzHcrc =>
    obtain rfl : .gzHcrc = x := by simpa [expected, hp] using hx
    obtain ⟨f, e⟩ := hs
    exact one _ e (keepsLegal_next (legal_hcrcRead h hp _ _ _))
  | blkHdr =>
    obtain rfl : .blkHdr = x := by simpa [expected, hp] using hx
    obtain ⟨f, e⟩ := hs
    rcases e with e | e | e | e <;> exact one _ e (keepsLegal_block h hp (f := f) (by simp))
  | storedLen =>
    obtain rfl : .storedLen = x := by simpa [expected, hp] using hx
    obtain ⟨len, nlen, e⟩ := hs
    exact one _ e (keepsLegal_storedLen h hp (h8 rfl) len nlen)
  | storedCopy =>
    obtain rfl : .storedCopy = x := by simpa [expected, hp] using hx
    obtain ⟨b, e⟩ := hs
    obtain ⟨counted, running⟩ := legal_countStored h hp
    exact one _ e (keepsLegal_emitOrHold counted running h)
  | dynHdr =>
    obtain rfl : .dynHdr = x := by simpa [expected, hp] using hx
    obtain ⟨hl, hd, hc, e⟩ := hs
    exact one _ e (keepsLegal_dynHdr h hp hl hd hc)
  | dynCllens =>
    obtain rfl : .dynCllens _ = x := by simpa [expected, hp] using hx
    obtain ⟨cll, e, -⟩ := hs
    exact one _ e (keepsLegal_dynCllens h hp cll)
  | dynLens =>
    obtain rfl : .clSym _ = x := by simpa [expected, hp] using hx
    obtain ⟨i, e, hi⟩ := hs
    exact one _ e (keepsLegal_clSym h hp hi)
  | symbol =>
    obtain rfl : .llSym _ _ = x := by simpa [expected, hp, h.values.matchLen] using hx
    rcases hs with ⟨i, e, hi, hn⟩ | ⟨i, j, rfl, -, hn, hj⟩
    · exact one _ e (keepsLegal_llSym h hp hi hn)
    · exact keepsLegal_lenDist h hp hn hj
  | trailer =>
    obtain rfl : .trailer = x := by simpa [expected, hp] using hx
    obtain ⟨crc, isize, e⟩ := hs
    exact one _ e (keepsLegal_trailer h hp crc isize)

/-! ### The turns -/

/-- One step that reads an element (R99). -/
theorem keepsLegal_runElement {s : State} (h : Legal s) {x : Expect} (hx : expected s = some x) :
    KeepsLegal (runElement x s) := by
  have ways := h.fetch_says hx
  unfold runElement
  generalize fetch x s = r at ways
  cases ways with
  | got is bs c p hf hal =>
    dsimp only
    split
    · exact keepsLegal_next h
    · exact keepsLegal_execAll (legal_got h hx hf hal) hx hal p.1
  | illegal e k bs c p hf =>
    exact keepsLegal_next (legal_capture h hx e k (.inl ⟨e, p⟩) (advanceTo_placed h.values.placed hf).1)
  | ended k bs c p hf =>
    exact keepsLegal_next (legal_capture h hx _ k (.inr p) (advanceTo_placed h.values.placed hf).1)
  | hold => exact keepsLegal_next h

/-- The engine's turn (R99). -/
theorem keepsLegal_engineStep {s : State} (h : Legal s) : KeepsLegal (engineStep s) := by
  unfold engineStep
  split_ifs with hp
  · obtain ⟨counted, running⟩ := legal_countCopy h hp
    exact keepsLegal_emitOrHold counted running h
  · split
    · exact keepsLegal_next h
    · exact keepsLegal_runElement h ‹_›

/-- A host command (R650 to R662, R750). -/
theorem keepsLegal_hostCommand {s : State} (h : Legal s) {i : Instr} (hi : i.format = .host) :
    KeepsLegal (exec i s) := by
  cases i with
  | start v => exact keepsLegal_next (legal_writeCtrl h v)
  | softReset v => exact keepsLegal_next (legal_writeCtrl h v)
  | regWrite off v =>
    change KeepsLegal (execRegWrite off v s)
    unfold execRegWrite writeRegister
    split_ifs
    · exact keepsLegal_next (legal_writeCtrl h v)
    · exact keepsLegal_next h
    · exact keepsLegal_refused _
  | regRead off =>
    change KeepsLegal (execRegRead off s)
    unfold execRegRead
    split
    · exact keepsLegal_next (h.withLines ..)
    · exact keepsLegal_refused _
  | pushByte b =>
    refine keepsLegal_next ?_
    split_ifs with hr
    · refine legal_present h (phase_ne_idle_of_busy ?_) [b]
      simp only [inReady, Bool.and_eq_true] at hr
      exact hr.1.1
    · exact h
  | endInput =>
    refine keepsLegal_next ?_
    split_ifs with hr
    · refine legal_endInput h (phase_ne_idle_of_busy ?_)
      simp only [Bool.and_eq_true] at hr
      exact hr.1
    · exact h
  | outAccept =>
    change KeepsLegal (execOutAccept s)
    rcases execOutAccept_cases s with e | e <;> rw [e]
    · exact keepsLegal_next h
    · exact keepsLegal_engineStep h
  | hardReset => exact keepsLegal_next (legal_hardwareReset s)
  | _ => simp [Instr.format] at hi

theorem keepsLegal_hostStep {s : State} (h : Legal s) (g : Signal) : KeepsLegal (hostStep g s) := by
  unfold hostStep
  split
  case h_1 i e => exact keepsLegal_hostCommand h (decodeHost_format e)
  case h_2 => exact keepsLegal_next (h.withLines ..)
  case h_3 => exact keepsLegal_refused _
  case h_4 => exact keepsLegal_refused _

theorem keepsLegal_runTurn {s : State} (h : Legal s) (t : Turn) : KeepsLegal (runTurn t s) := by
  cases t with
  | engine => exact keepsLegal_engineStep h
  | host g => exact keepsLegal_hostStep h g
  | inFlow b => exact keepsLegal_next (h.withLines ..)

theorem keepsLegal_step {s : State} (h : Legal s) : KeepsLegal (step s) := by
  unfold step
  split
  · exact keepsLegal_engineStep h
  · exact keepsLegal_runTurn (h.withLines ..) _

/-- Settles O54: every turn, the engine's and the host's, keeps a legal state. -/
theorem stepKeepsLegalStates : Obligations.StepKeepsLegalStates :=
  fun _ t h ht => keepsLegal_step h t ht

end Sys2Proof.Machine
end

section
/-! PROOFS. Reading with more bytes presented (40_bit_unpacker.md R301, 46_host_interface.md R655): what a read or a
decoding answers does not depend on the bytes behind those it takes. -/

namespace Sys2Proof

/-- The position with more bytes presented behind those it holds. -/
def Cursor.more (m : List Byte) (c : Cursor) : Cursor := { c with rest := c.rest ++ m }

/-- The second read, made with the bytes `m` presented too, answers what the first answers; where the first needed a
byte it had not, nothing is said of the second. -/
inductive Read.Early {α : Type} (m : List Byte) : Read α → Read α → Prop
  | ok (a : α) (c : Cursor) : Early m (.ok a c) (.ok a (c.more m))
  | short (c : Cursor) (r : Read α) : Early m (.short c) r
  | bad (f : ReadFault) : Early m (.bad f) (.bad f)

theorem Read.Early.bind {α β : Type} {m : List Byte} {r r' : Read α} {f : α → Cursor → Read β} (h : Early m r r')
    (hf : ∀ a c, Early m (f a c) (f a (c.more m))) : Early m (r.bind f) (r'.bind f) := by
  cases h with
  | ok a c => exact hf a c
  | short c r => exact .short c _
  | bad e => exact .bad e

/-- The second decoding, made with the bytes `m` presented too, answers what the first answers. -/
inductive Decoded.Early (m : List Byte) : Decoded → Decoded → Prop
  | elem (is : List Instr) (c : Cursor) : Early m (.elem is c) (.elem is (c.more m))
  | illegal (e : Err) (k : Capture) (c : Cursor) : Early m (.illegal e k c) (.illegal e k (c.more m))
  | short (k : Capture) (c : Cursor) (d : Decoded) : Early m (.short k c) d
  | bad (f : ReadFault) : Early m (.bad f) (.bad f)

theorem Read.Early.andThen {α : Type} {m : List Byte} {r r' : Read α} {k : Capture} {f : α → Cursor → Decoded}
    (h : Early m r r') (hf : ∀ a c, (f a c).Early m (f a (c.more m))) : (r.andThen k f).Early m (r'.andThen k f) := by
  cases h with
  | ok a c => exact hf a c
  | short c r => exact .short k c _
  | bad e => exact .bad e

variable (m : List Byte)

theorem pullByte_early (c : Cursor) : (pullByte c).Early m (pullByte (c.more m)) := by
  obtain ⟨buf, pos, rest⟩ := c
  cases rest with
  | nil => exact .short _ _
  | cons b r => exact .ok b ⟨buf, pos, r⟩

theorem refill_early (c : Cursor) : (refill c).Early m (refill (c.more m)) := by
  by_cases h : c.bitpos = 8
  · have h' : (c.more m).bitpos = 8 := h
    simp only [refill, if_pos h, if_pos h']
    exact (pullByte_early m c).bind fun b c' => .ok () { c' with bitbuf := b, bitpos := 0 }
  · have h' : (c.more m).bitpos ≠ 8 := h
    simp only [refill, if_neg h, if_neg h']
    exact .ok () c

theorem readBit_early (c : Cursor) : (readBit c).Early m (readBit (c.more m)) :=
  (refill_early m c).bind fun _ c' => .ok _ { c' with bitpos := c'.bitpos + 1 }

theorem readBitsLoop_early (n : Nat) (c : Cursor) : (readBitsLoop n c).Early m (readBitsLoop n (c.more m)) := by
  induction n generalizing c with
  | zero => exact .ok _ c
  | succ n ih => exact (readBit_early m c).bind fun b c' => (ih c').bind fun v c'' => .ok _ c''

theorem readBits_early (n : Nat) (c : Cursor) : (readBits n c).Early m (readBits n (c.more m)) := by
  unfold readBits
  split
  · exact readBitsLoop_early m n c
  · exact .bad _

theorem readByte_early (c : Cursor) : (readByte c).Early m (readByte (c.more m)) := by
  by_cases h : c.bitpos = 8
  · simpa only [readByte, if_pos h, if_pos (show (c.more m).bitpos = 8 from h)] using pullByte_early m c
  · simpa only [readByte, if_neg h, if_neg (show ¬ (c.more m).bitpos = 8 from h)] using .bad _

theorem readU16_early (c : Cursor) : (readU16 c).Early m (readU16 (c.more m)) :=
  (readByte_early m c).bind fun _ c0 => (readByte_early m c0).bind fun _ c1 => .ok _ c1

theorem readU32_early (c : Cursor) : (readU32 c).Early m (readU32 (c.more m)) :=
  (readU16_early m c).bind fun _ c0 => (readU16_early m c0).bind fun _ c1 => .ok _ c1

theorem huffLoop_early (syms counts : List Nat) (code first index : Nat) (c : Cursor) :
    (huffLoop syms counts code first index c).Early m (huffLoop syms counts code first index (c.more m)) := by
  induction counts generalizing code first index c with
  | nil => exact .ok _ c
  | cons n rest ih =>
    refine (readBit_early m c).bind fun b c' => ?_
    dsimp only
    split
    · exact .ok _ c'
    · exact ih _ _ _ c'

theorem huffDecode_early (t : HuffTable) (c : Cursor) : (huffDecode t c).Early m (huffDecode t (c.more m)) :=
  huffLoop_early m t.syms t.counts 0 0 0 c

theorem decodeGzFixed_early (c : Cursor) : (decodeGzFixed c).Early m (decodeGzFixed (c.more m)) := by
  refine (readByte_early m c).andThen fun id1 c => (readByte_early m c).andThen fun id2 c => ?_
  split
  · exact .illegal _ _ c
  refine (readByte_early m c).andThen fun cm c => ?_
  split
  · exact .illegal _ _ c
  exact (readByte_early m c).andThen fun flg c => (readU32_early m c).andThen fun mt c =>
    (readByte_early m c).andThen fun xfl c => (readByte_early m c).andThen fun os c => .elem _ c

theorem decodeCllens_early (n : Nat) (got : List (BitVec 3)) (c : Cursor) :
    (decodeCllens n got c).Early m (decodeCllens n got (c.more m)) := by
  induction n generalizing got c with
  | zero => exact .elem _ c
  | succ n ih => exact (readBits_early m 3 c).andThen fun l c => ih _ c

theorem decodeClSym_early (cl : List Nat) (c : Cursor) : (decodeClSym cl c).Early m (decodeClSym cl (c.more m)) := by
  refine (huffDecode_early m _ c).andThen fun sym c => ?_
  split
  · exact .illegal _ _ c
  · exact (readBits_early m _ c).andThen fun x c => .elem _ c

theorem decodeDSym_early (before : List Instr) (d : List Nat) (c : Cursor) :
    (decodeDSym before d c).Early m (decodeDSym before d (c.more m)) := by
  refine (huffDecode_early m _ c).andThen fun sym c => ?_
  split
  · exact .illegal _ _ c
  · exact (readBits_early m _ c).andThen fun x c => .elem _ c

theorem decodeLlSym_early (ll d : List Nat) (c : Cursor) :
    (decodeLlSym ll d c).Early m (decodeLlSym ll d (c.more m)) := by
  refine (huffDecode_early m _ c).andThen fun sym c => ?_
  cases sym with
  | none => exact .illegal _ _ c
  | some s =>
    dsimp only
    split_ifs
    · exact .elem _ c
    · exact .elem _ c
    · exact .elem _ c
    · exact .elem _ c
    · split
      · exact .illegal _ _ c
      · exact (readBits_early m _ c).andThen fun x c => decodeDSym_early m _ d c

/-- Decoding does not depend on the bytes presented behind those it reads (R301, R655). -/
theorem decode_early (x : Expect) (c : Cursor) : (decode x c).Early m (decode x (c.more m)) := by
  cases x with
  | gzFixed => exact decodeGzFixed_early m c
  | gzXlen => exact (readU16_early m c).andThen fun v c => .elem _ c
  | gzExtra => exact (readByte_early m c).andThen fun v c => .elem _ c
  | gzName => exact (readByte_early m c).andThen fun v c => .elem _ c
  | gzComment => exact (readByte_early m c).andThen fun v c => .elem _ c
  | gzHcrc => exact (readU16_early m c).andThen fun v c => .elem _ c
  | blkHdr => exact (readBits_early m 3 c).andThen fun v c => .elem _ c
  | storedLen =>
    exact (readU16_early m (alignToByte c)).andThen fun len c => (readU16_early m c).andThen fun nlen c => .elem _ c
  | storedCopy => exact (readByte_early m c).andThen fun v c => .elem _ c
  | dynHdr =>
    exact (readBits_early m 5 c).andThen fun hlit c => (readBits_early m 5 c).andThen fun hdist c =>
      (readBits_early m 4 c).andThen fun hclen c => .elem _ c
  | dynCllens n => exact decodeCllens_early m n [] c
  | clSym cl => exact decodeClSym_early m cl c
  | llSym ll d => exact decodeLlSym_early m ll d c
  | dSym d => exact decodeDSym_early m [] d c
  | trailer =>
    exact (readU32_early m (alignToByte c)).andThen fun crc c => (readU32_early m c).andThen fun isize c => .elem _ c

end Sys2Proof
end

section
/-! PROOFS. The engine's step with more bytes presented: the meanings do not look at the input, and a fetch reads
what it reads. -/

namespace Sys2Proof.Machine

/-- The state with other bytes presented to the input port. -/
def State.withInput (b : List Byte) (s : State) : State := { s with inBytes := b }

theorem completeTables_withInput (b : List Byte) (s : State) :
    completeTables (s.withInput b) = (completeTables s).withInput b := by
  simp only [completeTables, apply_ite (State.withInput b)]
  rfl

theorem finishLens_withInput (b : List Byte) (s : State) : finishLens (s.withInput b) = (finishLens s).withInput b := by
  simp only [finishLens, apply_ite (State.withInput b), ← completeTables_withInput]
  rfl

theorem defineLen_withInput (b : List Byte) (v : BitVec 4) (s : State) :
    defineLen v (s.withInput b) = (defineLen v s).withInput b :=
  finishLens_withInput b { s with lens := s.lens.setIfInBounds s.idx.toNat v, idx := s.idx + 1 }

theorem defineRun_withInput (b : List Byte) (r : Nat) (v : BitVec 4) (s : State) :
    defineRun r v (s.withInput b) = (defineRun r v s).withInput b := by
  simp only [defineRun, apply_ite (State.withInput b), ← finishLens_withInput]
  rfl

theorem countStored_withInput (b : List Byte) (s : State) :
    countStored (s.withInput b) = (countStored s).withInput b := by
  simp only [countStored, apply_ite (State.withInput b)]
  rfl

theorem startCopy_withInput (b : List Byte) (len : BitVec 9) (d : Nat) (s : State) :
    startCopy len d (s.withInput b) = (startCopy len d s).withInput b := by
  simp only [startCopy, apply_ite (State.withInput b)]
  rfl

/-- A meaning that does not look at the bytes presented: with others presented it does the same. -/
def InputBlind (f : State → Host.Outcome State Fault Refusal) : Prop :=
  ∀ (b : List Byte) (s t : State), f s = .next t → f (s.withInput b) = .next (t.withInput b)

/-- A meaning that always answers a next state. -/
theorem inputBlind_next {f : State → State} (h : ∀ b s, f (s.withInput b) = (f s).withInput b) :
    InputBlind fun s => .next (f s) := fun b s t e => by
  cases e; exact congrArg _ (h b s)

theorem inputBlind_emitOrHold {byte : State → Byte} {f : State → State}
    (hb : ∀ b s, byte (s.withInput b) = byte s) (h : ∀ b s, f (s.withInput b) = (f s).withInput b) :
    InputBlind fun s => emitOrHold (byte s) (f s) s := fun b s t e => by
  have ready : ((f s).withInput b).outReady = (f s).outReady := rfl
  simp only [emitOrHold, hb, h, ready] at e ⊢
  split_ifs at e ⊢ <;> cases e <;> rfl

theorem StreamRule.inputBlind {i : Instr} {f : State → Host.Outcome State Fault Refusal} (h : StreamRule i f) :
    InputBlind f := by
  cases h with
  | gzFixed flg mt xfl os => exact inputBlind_next fun b s => rfl
  | gzXlen n => exact inputBlind_next fun b s => by rw [apply_ite (State.withInput b)]; rfl
  | gzExtra b => exact inputBlind_next fun b s => by rw [apply_ite (State.withInput b)]; rfl
  | gzName c => exact inputBlind_next fun b s => by rw [apply_ite (State.withInput b)]; rfl
  | gzComment c => exact inputBlind_next fun b s => by rw [apply_ite (State.withInput b)]; rfl
  | gzHcrc f => exact inputBlind_next fun b s => rfl
  | blkStored f => exact inputBlind_next fun b s => rfl
  | blkFixed f => exact inputBlind_next fun b s => rfl
  | blkDynamic f => exact inputBlind_next fun b s => rfl
  | blkReserved f => exact inputBlind_next fun b s => rfl
  | storedLen len nlen => exact inputBlind_next fun b s => by simp only [apply_ite (State.withInput b)]; rfl
  | storedCopy c => exact inputBlind_emitOrHold (fun _ _ => rfl) countStored_withInput
  | dynHdr hl hd hc => exact inputBlind_next fun b s => by simp only [apply_ite (State.withInput b)]; rfl
  | dynCllens cll => exact inputBlind_next fun b s => by rw [apply_ite (State.withInput b)]; rfl
  | codeLength _ v => exact inputBlind_next fun b s => defineLen_withInput b v s
  | codeRepeat rep =>
    refine inputBlind_next fun b s => ?_
    simp only [apply_ite (State.withInput b), ← defineRun_withInput]
    rfl
  | codeZeros _ r => exact inputBlind_next fun b s => defineRun_withInput b r 0 s
  | literal c => exact inputBlind_emitOrHold (fun _ _ => rfl) fun _ _ => rfl
  | endOfBlock => exact inputBlind_next fun b s => rfl
  | noLength => exact inputBlind_next fun b s => rfl
  | length n => exact inputBlind_next fun b s => rfl
  | distance base dx =>
    intro b s t e
    have same : (s.withInput b).matchLen = s.matchLen := rfl
    unfold finishMatch at e ⊢
    rw [same]
    split at e <;> cases e
    exact congrArg _ (startCopy_withInput b _ _ s)
  | noDistance =>
    intro b s t e
    have same : (s.withInput b).matchLen = s.matchLen := rfl
    unfold rejectDistance at e ⊢
    rw [same]
    split at e <;> cases e
    rfl
  | trailer crc isize => exact inputBlind_next fun b s => by simp only [apply_ite (State.withInput b)]; rfl

theorem execAll_inputBlind {is : List Instr} (h : ∀ i ∈ is, i.format ≠ .host) : InputBlind (execAll is) := by
  induction is with
  | nil => exact inputBlind_next fun _ _ => rfl
  | cons i is ih =>
    intro b s t e
    have rule := (exec_rule (h i List.mem_cons_self)).inputBlind b s
    simp only [execAll] at e ⊢
    split at e
    · rename_i u hu
      rw [rule u hu]
      exact ih (fun j hj => h j (List.mem_cons_of_mem _ hj)) b u t e
    · cases e
    · cases e

/-! ### The engine's step with bytes presented early -/

theorem cursorOf_more {s : State} (h : s.ip ≤ s.inBytes.length) (m : List Byte) :
    cursorOf (s.withInput (s.inBytes ++ m)) = (cursorOf s).more m := by
  simp only [cursorOf, State.withInput, Cursor.more, List.drop_append_of_le_length h]

theorem advanceTo_more {s : State} (h : s.ip ≤ s.inBytes.length) (m : List Byte) (c : Cursor) :
    advanceTo (c.more m) (s.withInput (s.inBytes ++ m)) = (advanceTo c s).withInput (s.inBytes ++ m) := by
  have pulled : pulledBytes (s.withInput (s.inBytes ++ m)) (c.more m) = pulledBytes s c := by
    simp only [pulledBytes, State.withInput, Cursor.more, List.drop_append_of_le_length h, List.length_append,
      Nat.add_sub_add_right]
    exact List.take_append_of_le_length (by omega)
  simp only [advanceTo, pulled]
  rfl

theorem applyCapture_withInput (b : List Byte) (k : Capture) (s : State) :
    applyCapture k (s.withInput b) = (applyCapture k s).withInput b := by
  cases k <;> rfl

/-- The same answer with other bytes presented. -/
def Fetched.withInput (b : List Byte) : Fetched → Fetched
  | .got is s => .got is (s.withInput b)
  | .raised s => .raised (s.withInput b)
  | .hold => .hold
  | .bad f => .bad f

/-- A fetch that does not hold is the same with more bytes presented (R301). -/
theorem fetch_more {s : State} {x : Expect} (h : s.ip ≤ s.inBytes.length) (he : s.inEnd = false)
    (hh : fetch x s ≠ .hold) (m : List Byte) :
    fetch x (s.withInput (s.inBytes ++ m)) = (fetch x s).withInput (s.inBytes ++ m) := by
  have early := decode_early m x (cursorOf s)
  unfold fetch at hh ⊢
  rw [cursorOf_more h]
  generalize decode x ((cursorOf s).more m) = d', decode x (cursorOf s) = d at early hh
  cases early with
  | elem is c => simp only [Fetched.withInput, advanceTo_more h]
  | illegal e k c =>
    simp only [Fetched.withInput, advanceTo_more h, applyCapture_withInput]
    rfl
  | short k c => simp [he] at hh
  | bad f => rfl

theorem runElement_more {s t : State} {x : Expect} (h : Legal s) (hx : expected s = some x) (he : s.inEnd = false)
    (hh : heldOnInput s = false) (m : List Byte) (ht : runElement x s = .next t) :
    runElement x (s.withInput (s.inBytes ++ m)) = .next (t.withInput (s.inBytes ++ m)) := by
  have moves : fetch x s ≠ .hold := fun e => by simp [(heldOnInput_eq hx).mpr e] at hh
  have ways := h.fetch_says hx
  have ready : (s.withInput (s.inBytes ++ m)).outReady = s.outReady := rfl
  unfold runElement at ht ⊢
  rw [fetch_more h.values.ip he moves, ready]
  generalize fetch x s = r at ways ht moves
  cases ways with
  | got is bs c p =>
    dsimp only [Fetched.withInput] at ht ⊢
    split_ifs at ht ⊢
    · cases ht; rfl
    · exact execAll_inputBlind (shape_format p.1) _ _ _ ht
  | illegal => cases ht; rfl
  | ended => cases ht; rfl
  | hold => exact absurd rfl moves

theorem copyStep_inputBlind : InputBlind copyStep :=
  inputBlind_emitOrHold (fun _ _ => rfl) fun _ _ => rfl

/-- Settles O60: what the step reads is there already, so the bytes behind it do not count. -/
theorem earlyBytesChangeNothing : Obligations.EarlyBytesChangeNothing := by
  intro s t m h he hh ht
  change engineStep (s.withInput (s.inBytes ++ m)) = .next (t.withInput (s.inBytes ++ m))
  have phase : (s.withInput (s.inBytes ++ m)).phase = s.phase := rfl
  have expects : expected (s.withInput (s.inBytes ++ m)) = expected s := rfl
  unfold engineStep at ht ⊢
  rw [phase, expects]
  split_ifs at ht ⊢
  · exact copyStep_inputBlind _ _ _ ht
  · split at ht
    · cases ht; rfl
    · exact runElement_more h ‹_› he hh m ht

end Sys2Proof.Machine
end

section
/-! PROOFS. The frame of the stream instructions (10_state.md R55, 41_block_dispatch.md R359). -/

namespace Sys2Proof.Machine

/-- The error fields are unchanged. -/
def SameError (s t : State) : Prop := t.errCode = s.errCode ∧ t.errDetail = s.errDetail ∧ t.errOrigin = s.errOrigin

/-- What a stream instruction leaves unchanged, by its format: the clauses of the statement, each with a name. -/
structure Frame (i : Instr) (s t : State) : Prop where
  lines : t.ctrlRaw = s.ctrlRaw ∧ t.ctrlIrqEn = s.ctrlIrqEn ∧ t.modeRaw = s.modeRaw ∧ t.ip = s.ip ∧
    t.bitbuf = s.bitbuf ∧ t.hcrcAcc = s.hcrcAcc ∧ t.inBytes = s.inBytes ∧ t.inEnd = s.inEnd ∧
    t.outReady = s.outReady ∧ t.regRdata = s.regRdata ∧ t.inFlow = s.inFlow ∧ t.draws = s.draws ∧
    t.wEpoch = s.wEpoch ∧ t.agenda = s.agenda
  output : emits i = false → t.outBytes = s.outBytes ∧ t.wpos = s.wpos ∧ t.hist = s.hist ∧ t.crc = s.crc ∧
    t.isize = s.isize ∧ ∀ a, windowRead t a = windowRead s a
  error : t.phase ≠ .error → SameError s t
  header : i.format ≠ .gzFixed → t.hdrCm = s.hdrCm ∧ t.hdrFlg = s.hdrFlg ∧ t.hdrMtime = s.hdrMtime ∧
    t.hdrXfl = s.hdrXfl ∧ t.hdrOs = s.hdrOs ∧ t.warnFlg = s.warnFlg
  hcrc : i.format ≠ .gzHcrc → t.hcrcField = s.hcrcField ∧ t.hcrcCalc = s.hcrcCalc ∧ t.warnHcrc = s.warnHcrc
  xlenRem : i.format ≠ .gzXlen → i.format ≠ .gzExtra → t.xlenRem = s.xlenRem
  block : i.format ≠ .blkHdr → t.bfinal = s.bfinal ∧ t.btype = s.btype
  tblFixed : i.format ≠ .blkHdr → i.format ≠ .clSym → t.tblFixed = s.tblFixed
  storedRem : i.format ≠ .stored → t.storedRem = s.storedRem
  bitpos : i.format ≠ .stored → i ≠ .eob → t.bitpos = s.bitpos
  counts : i.format ≠ .dynHdr → t.hlit = s.hlit ∧ t.hdist = s.hdist ∧ t.hclen = s.hclen
  clLens : i.format ≠ .dynCllens → t.clLens = s.clLens
  lens : i.format ≠ .dynCllens → i.format ≠ .clSym → t.lens = s.lens ∧ t.idx = s.idx
  copy : i.format ≠ .dSym → t.copyLen = s.copyLen ∧ t.copyDist = s.copyDist
  trailer : i.format ≠ .gzTrailer → t.trlCrc = s.trlCrc ∧ t.trlIsize = s.trlIsize

namespace Frame

/-- A change of the phase and of the pending match length is in every frame. -/
theorem control (i : Instr) (s : State) (p : Phase) (n : Option (BitVec 9)) :
    Frame i s { s with phase := p, matchLen := n } := by
  constructor <;> simp [windowRead, SameError]

theorem refl (i : Instr) (s : State) : Frame i s s := control i s s.phase s.matchLen

section
variable {i : Instr} {s u : State}

/-- A raise (R704) is in the frame of every instruction, whatever was written before it. -/
theorem raise (h : Frame i s u) (e : Err) : Frame i s (raise e u) :=
  { h with error := fun hp => absurd rfl hp }

/-- EndOfBlock (R357) aligns in raw mode only, and only the formats that end a block call it. -/
theorem endOfBlock (h : Frame i s u) (hi : i.format = .stored ∨ i = .eob) (he : SameError s u) :
    Frame i s (endOfBlock u) :=
  { h with
    error := fun _ => he
    bitpos := fun h1 h2 => (hi.elim h1 h2).elim }

/-- Emit (R550). -/
theorem emit (h : Frame i s u) (hi : emits i = true) (b : Byte) : Frame i s (emit b u) :=
  { h with output := fun h0 => absurd (hi.symm.trans h0) (by decide) }

/-- The end of a DYN_LENS step (R422, R427). -/
theorem finishLens (h : Frame i s u) (hi : i.format = .clSym) (he : SameError s u) : Frame i s (finishLens u) := by
  unfold Machine.finishLens completeTables
  split_ifs
  · exact h.raise _
  · exact h.raise _
  · exact h.raise _
  · exact { h with error := fun _ => he, tblFixed := fun _ h2 => absurd hi h2 }
  · exact h

end

theorem emitOrHold {i : Instr} {s u t : State} (h : Frame i s u) (hi : emits i = true) (b : Byte)
    (ht : emitOrHold b u s = .next t) : Frame i s t := by
  unfold Machine.emitOrHold at ht
  split_ifs at ht <;> cases ht
  · exact h.emit hi b
  · exact refl i s

theorem countStored (b : Byte) (s : State) : Frame (.storedCopy b) s (countStored s) := by
  have counted : Frame (.storedCopy b) s { s with storedRem := s.storedRem - 1 } :=
    { refl _ s with storedRem := fun h => absurd rfl h }
  unfold Machine.countStored
  split
  · exact counted.endOfBlock (.inl rfl) ⟨rfl, rfl, rfl⟩
  · exact counted

theorem defineRun {i : Instr} (hi : i.format = .clSym) (r : Nat) (v : BitVec 4) (s : State) :
    Frame i s (defineRun r v s) := by
  unfold Machine.defineRun
  split
  · exact (refl i s).raise _
  · exact finishLens { refl i s with lens := fun _ h => absurd hi h } hi ⟨rfl, rfl, rfl⟩

theorem startCopy {i : Instr} (hi : i.format = .dSym) (n : BitVec 9) (d : Nat) (s : State) :
    Frame i s (startCopy n d s) := by
  unfold Machine.startCopy
  split
  · exact (refl i s).raise _
  · exact { control i s .copy none with copy := fun h => absurd hi h }

/-- Every rule keeps its frame. -/
theorem of_rule {i : Instr} {f : State → Host.Outcome State Fault Refusal} (rule : StreamRule i f) {s t : State}
    (ht : f s = .next t) : Frame i s t := by
  cases rule with
  | gzFixed flg mt xfl os =>
    cases ht
    exact { control _ s _ s.matchLen with header := fun h => absurd rfl h }
  | gzXlen n =>
    cases ht
    split
    · exact control _ s _ s.matchLen
    · exact { control _ s .gzExtra s.matchLen with xlenRem := fun h => absurd rfl h }
  | gzExtra b =>
    cases ht
    split
    · exact { control _ s _ s.matchLen with xlenRem := fun _ h => absurd rfl h }
    · exact { refl _ s with xlenRem := fun _ h => absurd rfl h }
  | gzName b | gzComment b =>
    cases ht
    split
    · exact control _ s _ s.matchLen
    · exact refl _ s
  | gzHcrc f =>
    cases ht
    exact { control _ s .blkHdr s.matchLen with hcrc := fun h => absurd rfl h }
  | blkStored f | blkFixed f | blkDynamic f =>
    cases ht
    exact { control _ s _ s.matchLen with block := fun h => (h rfl).elim, tblFixed := fun h => (h rfl).elim }
  | blkReserved f =>
    have recorded : Frame (.blkReserved f) s (recordHeader f 3 s) := { refl _ s with block := fun h => absurd rfl h }
    cases ht
    exact recorded.raise _
  | storedLen len nlen =>
    cases ht
    split_ifs
    · exact (refl _ s).raise _
    · exact (refl _ s).endOfBlock (.inl rfl) ⟨rfl, rfl, rfl⟩
    · exact { control _ s .storedCopy s.matchLen with storedRem := fun h => absurd rfl h }
  | storedCopy b => exact (countStored b s).emitOrHold rfl b ht
  | dynHdr hl hd hc =>
    have counted : Frame (.dynHdr hl hd hc) s
        { s with hlit := hlitCount hl, hdist := hdistCount hd, hclen := hclenCount hc } :=
      { refl _ s with counts := fun h => absurd rfl h }
    cases ht
    split
    · exact counted.raise _
    split
    · exact counted.raise _
    · exact { counted with error := fun _ => ⟨rfl, rfl, rfl⟩ }
  | dynCllens cll =>
    have loaded : Frame (.dynCllens cll) s { s with clLens := loadClLens cll } :=
      { refl _ s with clLens := fun h => absurd rfl h }
    cases ht
    split
    · exact loaded.raise _
    · exact { loaded with error := fun _ => ⟨rfl, rfl, rfl⟩, lens := fun h => absurd rfl h }
  | codeLength _ v hi =>
    cases ht
    exact finishLens { refl i s with lens := fun _ h => absurd hi h } hi ⟨rfl, rfl, rfl⟩
  | codeRepeat rep =>
    cases ht
    split
    · exact (refl _ s).raise _
    · exact defineRun rfl _ _ s
  | codeZeros _ r hi => cases ht; exact defineRun hi r 0 s
  | literal b => exact (refl _ s).emitOrHold rfl b ht
  | endOfBlock => cases ht; exact (refl _ s).endOfBlock (.inr rfl) ⟨rfl, rfl, rfl⟩
  | noLength => cases ht; exact (refl i s).raise _
  | noDistance =>
    unfold rejectDistance at ht
    split at ht <;> cases ht
    exact (refl i s).raise _
  | length _ n => cases ht; exact control _ s s.phase (some n)
  | distance _ base dx hi =>
    unfold finishMatch at ht
    split at ht <;> cases ht
    exact startCopy hi _ _ s
  | trailer crc isize =>
    have captured : Frame (.gzTrailer crc isize) s (captureTrailer crc isize s) :=
      { refl _ s with trailer := fun h => absurd rfl h }
    cases ht
    split_ifs
    · exact captured.raise _
    · exact captured.raise _
    · exact { captured with error := fun _ => ⟨rfl, rfl, rfl⟩ }

end Frame

/-- Settles O50: the frame of the rule each instruction runs by. -/
theorem elementsWriteOnlyTheirFields : Obligations.ElementsWriteOnlyTheirFields := by
  intro i s t hi ht
  obtain ⟨lines, output, error, header, hcrc, xlenRem, block, tblFixed, storedRem, bitpos, counts, clLens, lens, copy,
    trailer⟩ := Frame.of_rule (exec_rule hi) ht
  exact ⟨lines, output, error, header, hcrc, xlenRem, block, tblFixed, storedRem, bitpos, counts, clLens, lens, copy,
    trailer⟩

end Sys2Proof.Machine
end

section
/-! PROOFS. STATUS, the host's turn and the step that runs an element (10_state.md R65 to R75, R99). -/

namespace Sys2Proof.Machine

theorem irq_eq (s : State) : irq s = (s.ctrlIrqEn && (s.phase == .done || s.phase == .error)) := rfl

theorem busy_eq (s : State) : busy s = !(s.phase == .idle || s.phase == .done || s.phase == .error) := by
  unfold busy; cases s.phase <;> rfl

/-- Bit `i` of STATUS, by the field it falls in (R65). -/
theorem statusWord_bit (s : State) (i : Nat) :
    (statusWord s).getLsbD i =
      if i < 5 then (phaseCode s.phase).getLsbD i else
      if i - 5 < 1 then (BitVec.ofBool (busy s)).getLsbD (i - 5) else
      if i - 6 < 1 then (BitVec.ofBool (isDone s)).getLsbD (i - 6) else
      if i - 7 < 1 then (BitVec.ofBool (isError s)).getLsbD (i - 7) else
      if i - 8 < 1 then (BitVec.ofBool s.bfinal).getLsbD (i - 8) else
      if i - 9 < 2 then s.btype.getLsbD (i - 9) else
      if i - 11 < 1 then (BitVec.ofBool s.warnHcrc).getLsbD (i - 11) else
      if i - 12 < 1 then (BitVec.ofBool s.warnFlg).getLsbD (i - 12) else
      if i - 13 < 1 then (BitVec.ofBool s.modeRaw).getLsbD (i - 13) else
      if i - 14 < 1 then (BitVec.ofBool (irq s)).getLsbD (i - 14) else false := by
  simp only [statusWord, flagBit, BitVec.getLsbD_append, BitVec.getLsbD_zero]
  simp only [Nat.sub_sub, Nat.reduceAdd]

/-- Settles O36: each field is read off at its bits. -/
theorem statusFieldsReadTheirState : Obligations.StatusFieldsReadTheirState := by
  refine ⟨fun s => ?_, by decide, by decide⟩
  refine ⟨?phase, ?_, ?_, ?_, ?_, ?btype, ?_, ?_, ?_, ?_, ?reserved⟩
  case phase =>
    refine BitVec.eq_of_getLsbD_eq fun i hi => ?_
    rw [BitVec.getLsbD_extractLsb', statusWord_bit]
    simp [hi]
  case btype =>
    refine BitVec.eq_of_getLsbD_eq fun i hi => ?_
    rw [BitVec.getLsbD_extractLsb', statusWord_bit]
    simp (disch := omega) [hi, if_neg]
  case reserved =>
    refine BitVec.eq_of_getLsbD_eq fun i hi => ?_
    rw [BitVec.getLsbD_extractLsb', statusWord_bit]
    simp (disch := omega) [if_neg]
  all_goals
    rw [statusWord_bit]
    simp [busy_eq, irq_eq, isDone, isError]

/-- An access of 4 bytes at a register's address is RegRead at its offset (R154, R157). -/
theorem decodeHost_memRead {off : BitVec 6} (h : off.toNat % 4 = 0) :
    decodeHost (.memRead (Config.regBase + off.toNat) 4) = .command (.regRead off) := by
  have := off.isLt
  have inside : off.toNat < Config.regBlockBytes := this
  simp [decodeHost, decodeAccess, h, inside]

/-- Settles O33: the turn is the command, and the bytes of a bus read are the lanes of the word read. -/
theorem hostTurnRunsItsCommand : Obligations.HostTurnRunsItsCommand := by
  intro s rest g ha
  have turn : step s = hostStep g { s with agenda := rest } := by simp only [step, ha, runTurn]
  refine ⟨fun i hi => ?_, fun b hb => ?_, fun hg => ?_, fun hg => ?_, fun off hoff hg => ?_, fun b => rfl⟩
  · simp only [turn, hostStep, hi]
  · simp only [turn, hb, hostStep, decodeHost]
  · simp only [turn, hostStep, hg]
  · simp only [turn, hostStep, hg]
  · have aligned : alignedOffset off = true := by simpa [alignedOffset] using hoff
    obtain ⟨t, ht⟩ : ∃ t, exec (.regRead off) { s with agenda := rest } = .next t := ⟨_, if_pos aligned⟩
    refine ⟨t, ?_, ht, rfl, fun k hk => ?_⟩
    · simp only [turn, hostStep, hg, decodeHost_memRead hoff, ht]
    · simp [busRdata, byteLane, hk]

/-- Settles O31: the step is the element's meaning at the state its bits leave. -/
theorem stepRunsTheDecodedElement : Obligations.StepRunsTheDecodedElement := by
  intro s x is c hx hd ho
  have got : fetch x s = .got is (advanceTo c s) := by simp only [fetch, hd]
  have free : (is.any emits && !s.outReady) = false := by rcases ho with ho | ho <;> simp [ho]
  refine ⟨fun ha => ?_, fun rest ha => ?_, execAll_one, fun i j u v h => execAll_two h, fun h => ?_⟩
  · simp only [step, ha]
    exact engineStep_of_got hx got free
  · have got' : fetch x { s with agenda := rest } = .got is (advanceTo c { s with agenda := rest }) := by
      simp only [fetch, show cursorOf { s with agenda := rest } = cursorOf s from rfl, hd]
    simp only [step, ha, runTurn]
    exact engineStep_of_got (s := { s with agenda := rest }) hx got' free
  · obtain ⟨bs, hf⟩ : ∃ bs, Follows bs (elementStart x (cursorOf s)) c := by
      have ways := h.decode_says hx
      rw [hd] at ways
      cases ways with
      | elem _ bs _ _ hf => exact ⟨bs, hf⟩
    rw [moved_bits_take hf]
    exact ⟨took_advance h.values.placed hf, advanceTo_cursor h.values.placed hf⟩

end Sys2Proof.Machine
end

section
/-! PROOFS. Reading where the input ends inside an element (10_state.md R99, 00_scope.md R18). -/

namespace Sys2Proof

/-! ### Fields of the bits that are left -/

/-- Bits are the field of their value. -/
theorem fieldBits_ofNat_bitsValue (bs : List Bool) : fieldBits (BitVec.ofNat bs.length (bitsValue bs)) = bs := by
  have exists_field : ∃ v : BitVec bs.length, fieldBits v = bs := by
    induction bs with
    | nil => exact ⟨0#0, rfl⟩
    | cons b bs ih =>
      obtain ⟨v, hv⟩ := ih
      exact ⟨v.concat b, by rw [fieldBits_concat, hv]⟩
  obtain ⟨v, hv⟩ := exists_field
  rw [← congrArg bitsValue hv, bitsValue_fieldBits, BitVec.ofNat_toNat, BitVec.setWidth_eq, hv]

/-- ReadBits(n) (R303) where enough bits are left. -/
theorem readBits_enough {n : Nat} (hn : n ≤ 16) {c : Cursor} (hc : c.Fine) (h : n ≤ c.bits.length) :
    ∃ c', Takes (readBits n c) c (c.bits.take n) (BitVec.ofNat n (bitsValue (c.bits.take n))) c' := by
  have length : (c.bits.take n).length = n := List.length_take_of_le h
  have field := fieldBits_ofNat_bitsValue (c.bits.take n)
  rw [length] at field
  obtain ⟨c', ht⟩ := readBits_takes hn hc (v := BitVec.ofNat n (bitsValue (c.bits.take n))) (l := c.bits.drop n)
    (by rw [field, List.take_append_drop])
  exact ⟨c', by rwa [field] at ht⟩

/-- ReadBits(n) (R300, R303) where the input runs out: every bit left is taken. -/
theorem readBits_short {n : Nat} (hn : n ≤ 16) {c : Cursor} (hc : c.Fine) (h : c.bits.length < n) :
    ∃ c', readBits n c = .short c' ∧ Follows c.bits c c' ∧ c'.Dry := by
  have ways := readBits_says hn hc
  generalize readBits n c = r at ways
  cases ways with
  | ok v bs c' p hf =>
    have := congrArg List.length hf.bits
    rw [show bs = fieldBits v from p, List.length_append, length_fieldBits] at this
    omega
  | short bs c' hf dry =>
    have all : c.bits = bs := by rw [hf.bits, Cursor.bits_of_dry dry, List.append_nil]
    exact ⟨c', rfl, all ▸ hf, dry⟩

theorem Follows.bits_eq_drop {n : Nat} {c c' : Cursor} (h : Follows (c.bits.take n) c c') :
    c'.bits = c.bits.drop n := by
  have := h.bits
  rw [← List.append_cancel_left_eq (c.bits.take n), List.take_append_drop]
  exact this.symm

/-- Taking the first bits and then all the others takes all. -/
theorem Follows.all {n : Nat} {c c' c'' : Cursor} (h : Follows (c.bits.take n) c c') (h' : Follows c'.bits c' c'') :
    Follows c.bits c c'' := by
  have := h.trans h'
  rwa [h.bits_eq_drop, List.take_append_drop] at this

/-- The fields DYN_HDR (R420) has read whole of `l`. -/
def dynHdrRead (l : List Bool) : Capture :=
  if l.length < 5 then .nothing
  else if l.length < 10 then .hlit (BitVec.ofNat 5 (bitsValue (l.take 5)))
  else .hdist (BitVec.ofNat 5 (bitsValue (l.take 5))) (BitVec.ofNat 5 (bitsValue ((l.drop 5).take 5)))

theorem decodeDynHdr_short {c : Cursor} (hc : c.Fine) (h : c.bits.length < 14) :
    ∃ c', decodeDynHdr c = .short (dynHdrRead c.bits) c' ∧ Follows c.bits c c' := by
  unfold decodeDynHdr dynHdrRead
  by_cases h5 : c.bits.length < 5
  · obtain ⟨c1, e1, f1, -⟩ := readBits_short (by omega) hc h5
    exact ⟨c1, by simp only [e1, Read.andThen, if_pos h5], f1⟩
  obtain ⟨c1, e1, f1⟩ := readBits_enough (n := 5) (by omega) hc (by omega)
  have b1 := f1.bits_eq_drop
  have l1 : c1.bits.length = c.bits.length - 5 := by rw [b1, List.length_drop]
  by_cases h10 : c.bits.length < 10
  · obtain ⟨c2, e2, f2, -⟩ := readBits_short (n := 5) (by omega) f1.fine (by omega)
    exact ⟨c2, by simp only [e1, e2, Read.andThen, if_neg h5, if_pos h10], f1.all f2⟩
  obtain ⟨c2, e2, f2⟩ := readBits_enough (n := 5) (by omega) f1.fine (by omega)
  have l2 : c2.bits.length = c1.bits.length - 5 := by rw [f2.bits_eq_drop, List.length_drop]
  obtain ⟨c3, e3, f3, -⟩ := readBits_short (n := 4) (by omega) f2.fine (by omega)
  exact ⟨c3, by simp only [e1, e2, e3, Read.andThen, if_neg h5, if_neg h10, b1], f1.all (f2.all f3)⟩

/-- The whole 3-bit fields of `l` (R207), in order. -/
def cllFields (l : List Bool) : List (BitVec 3) :=
  (List.range (l.length / 3)).map fun k => BitVec.ofNat 3 (bitsValue ((l.drop (3 * k)).take 3))

theorem cllFields_short {l : List Bool} (h : l.length < 3) : cllFields l = [] := by
  simp [cllFields, Nat.div_eq_of_lt h]

theorem cllFields_cons {l : List Bool} (h : 3 ≤ l.length) :
    cllFields l = BitVec.ofNat 3 (bitsValue (l.take 3)) :: cllFields (l.drop 3) := by
  have count : l.length / 3 = (l.length - 3) / 3 + 1 := by omega
  simp only [cllFields, count, List.length_drop, List.range_succ_eq_map, List.map_cons, List.map_map, List.drop_drop,
    Nat.mul_zero, List.drop_zero]
  congr 2
  funext k
  simp only [Function.comp, Nat.succ_eq_add_one, show 3 * (k + 1) = 3 + 3 * k by omega]

theorem cllFields_getD (l : List Bool) (k : Nat) :
    (cllFields l).getD k 0 =
      if 3 * k + 3 ≤ l.length then BitVec.ofNat 3 (bitsValue ((l.drop (3 * k)).take 3)) else 0 := by
  split_ifs with h
  · simp [cllFields, show k < l.length / 3 by omega]
  · simp [cllFields, show ¬ k < l.length / 3 by omega]

theorem decodeCllens_short (n : Nat) (got : List (BitVec 3)) {c : Cursor} (hc : c.Fine) (h : c.bits.length < 3 * n) :
    ∃ c', decodeCllens n got c = .short (.clLens (got ++ cllFields c.bits)) c' ∧ Follows c.bits c c' := by
  induction n generalizing got c with
  | zero => omega
  | succ n ih =>
    by_cases h3 : c.bits.length < 3
    · obtain ⟨c1, e1, f1, -⟩ := readBits_short (n := 3) (by omega) hc h3
      exact ⟨c1, by simp only [decodeCllens, e1, Read.andThen, cllFields_short h3, List.append_nil], f1⟩
    · obtain ⟨c1, e1, f1⟩ := readBits_enough (n := 3) (by omega) hc (by omega)
      have b1 := f1.bits_eq_drop
      obtain ⟨c2, e2, f2⟩ := ih (got ++ [BitVec.ofNat 3 (bitsValue (c.bits.take 3))]) f1.fine
        (by rw [b1, List.length_drop]; omega)
      refine ⟨c2, ?_, f1.all f2⟩
      rw [cllFields_cons (by omega), ← b1]
      simp only [decodeCllens, e1, Read.andThen, e2, List.append_assoc, List.singleton_append]

/-! ### Whole bytes that are left -/

theorem toNat_append_eq_add {n m : Nat} (hi : BitVec n) (lo : BitVec m) :
    (hi ++ lo).toNat = hi.toNat * 2 ^ m + lo.toNat := by
  rw [BitVec.toNat_append, ← Nat.shiftLeft_add_eq_or_of_lt lo.isLt, Nat.shiftLeft_eq]

/-- ReadU32LE (R306) of four bytes. -/
theorem readU32_cons (buf b0 b1 b2 b3 : Byte) (r : List Byte) :
    readU32 ⟨buf, 8, b0 :: b1 :: b2 :: b3 :: r⟩ = .ok (leU32 b0 b1 b2 b3) ⟨buf, 8, r⟩ := by
  have word : (b3 ++ b2 : BitVec 16) ++ (b1 ++ b0 : BitVec 16) = leU32 b0 b1 b2 b3 := by
    refine BitVec.eq_of_toNat_eq ?_
    rw [toNat_append_eq_add (b3 ++ b2 : BitVec 16), toNat_append_eq_add b3, toNat_append_eq_add b1, leU32,
      BitVec.toNat_ofNat]
    omega
  rw [← word]; rfl

/-- ReadU32LE (R300, R306) where fewer than four bytes are left: all are pulled. -/
theorem readU32_short (buf : Byte) {l : List Byte} (h : l.length < 4) : readU32 ⟨buf, 8, l⟩ = .short ⟨buf, 8, []⟩ := by
  match l, h with
  | [], _ => rfl
  | [_], _ => rfl
  | [_, _], _ => rfl
  | [_, _, _], _ => rfl

/-- Four bytes are there, or fewer. -/
theorem four_bytes (l : List Byte) : l.length < 4 ∨ ∃ b0 b1 b2 b3 r, l = b0 :: b1 :: b2 :: b3 :: r := by
  match l with
  | [] | [_] | [_, _] | [_, _, _] => simp
  | b0 :: b1 :: b2 :: b3 :: r => exact .inr ⟨b0, b1, b2, b3, r, rfl⟩

/-- The trailer field (R620) read whole of `l`. -/
def trailerRead (l : List Byte) : Capture :=
  if l.length < 4 then .nothing else .trlCrc (leU32 (l.getD 0 0) (l.getD 1 0) (l.getD 2 0) (l.getD 3 0))

theorem decodeTrailer_short (buf : Byte) (pos : BitVec 4) {l : List Byte} (h : l.length < 8) :
    decodeTrailer ⟨buf, pos, l⟩ = .short (trailerRead l) ⟨buf, 8, []⟩ := by
  unfold decodeTrailer trailerRead
  rcases four_bytes l with h4 | ⟨b0, b1, b2, b3, r, rfl⟩
  · simp only [alignToByte, readU32_short _ h4, Read.andThen, if_pos h4]
  · have hr : r.length < 4 := by simp at h; omega
    simp only [alignToByte, readU32_cons, readU32_short _ hr, Read.andThen]
    rfl

/-- The fields of a fixed header (R600) read whole of `l`, which begins as one does. -/
def gzFixedRead (l : List Byte) : Capture :=
  if l.length < 3 then .nothing
  else if l.length < 4 then .hdrCm 8
  else if l.length < 8 then .hdrFlg (l.getD 3 0)
  else if l.length < 9 then .hdrMtime (l.getD 3 0) (leU32 (l.getD 4 0) (l.getD 5 0) (l.getD 6 0) (l.getD 7 0))
  else .hdrXfl (l.getD 3 0) (leU32 (l.getD 4 0) (l.getD 5 0) (l.getD 6 0) (l.getD 7 0)) (l.getD 8 0)

theorem decodeGzFixed_short (buf : Byte) {l : List Byte} (h : l.length < 10)
    (hm : l.length < 2 ∨ l.take 3 <+: [0x1F, 0x8B, 0x08]) :
    decodeGzFixed ⟨buf, 8, l⟩ = .short (gzFixedRead l) ⟨buf, 8, []⟩ := by
  match l with
  | [] => rfl
  | [_] => rfl
  | [a, b] =>
    obtain ⟨rfl, rfl⟩ : a = 0x1F ∧ b = 0x8B := by simpa using hm
    rfl
  | a :: b :: c :: l =>
    obtain ⟨rfl, rfl, rfl⟩ : a = 0x1F ∧ b = 0x8B ∧ c = 0x08 := by simpa using hm
    rcases l with _ | ⟨flg, l⟩
    · rfl
    have start : decodeGzFixed ⟨buf, 8, 0x1F :: 0x8B :: 0x08 :: flg :: l⟩ =
        (readU32 ⟨buf, 8, l⟩).andThen (.hdrFlg flg) fun mtime c =>
          (readByte c).andThen (.hdrMtime flg mtime) fun xfl c =>
          (readByte c).andThen (.hdrXfl flg mtime xfl) fun os c => .elem [.gzFixed flg mtime xfl os] c := rfl
    rw [start]
    rcases four_bytes l with h4 | ⟨b0, b1, b2, b3, l, rfl⟩
    · have read : gzFixedRead (0x1F :: 0x8B :: 0x08 :: flg :: l) = .hdrFlg flg := by
        simp only [gzFixedRead, List.length_cons, List.getD_cons_succ, List.getD_cons_zero]
        rw [if_neg (by omega), if_neg (by omega), if_pos (by omega)]
      rw [readU32_short _ h4, read]; rfl
    rw [readU32_cons]
    match l with
    | [] => rfl
    | [_] => rfl
    | _ :: _ :: _ => simp at h; omega

end Sys2Proof
end

section
/-! PROOFS. The steps that run no element (10_state.md R99). -/

namespace Sys2Proof.Machine

section
variable {s : State} {x : Expect} {k : Capture} {c : Cursor} (hx : expected s = some x)
include hx

/-- Out of input before its end: the step holds (R300, R660). -/
theorem held_of_short (hd : decode x (cursorOf s) = .short k c) (he : s.inEnd = false) :
    heldOnInput s = true ∧ engineStep s = .next s := by
  have hold : fetch x s = .hold := by simp [fetch, hd, he]
  exact ⟨(heldOnInput_eq hx).mpr hold, by rw [engineStep_eq_runElement hx, runElement, hold]⟩

/-- Out of input after its end: UnexpectedEndOfInput (R300, R657). -/
theorem raised_of_short (hd : decode x (cursorOf s) = .short k c) (he : s.inEnd = true) :
    heldOnInput s = false ∧
      engineStep s = .next (raise .unexpectedEndOfInput (applyCapture k (advanceTo c s))) :=
  engineStep_of_raised hx (by simp [fetch, hd, he])

/-- Bits that are no element raise the decoder's error (R404). -/
theorem raised_of_illegal {e : Err} (hd : decode x (cursorOf s) = .illegal e k c) :
    heldOnInput s = false ∧ engineStep s = .next (raise e (applyCapture k (advanceTo c s))) :=
  engineStep_of_raised hx (by simp [fetch, hd])

/-- An emitting step holds while the output port takes no byte (R662). -/
theorem held_of_emits {is : List Instr} (hd : decode x (cursorOf s) = .elem is c) (hem : is.any emits = true)
    (ho : s.outReady = false) : engineStep s = .next s := by
  simp [engineStep_eq_runElement hx, runElement, fetch, hd, hem, ho]

end

/-- The state with all its input consumed, at a byte boundary. -/
theorem advanceTo_end {s : State} (h : s.ip ≤ s.inBytes.length) :
    advanceTo ⟨s.bitbuf, 8, []⟩ s = { s with
      bitpos := 8
      ip := s.inBytes.length
      hcrcAcc := if headerCrcPhase s.phase then (s.inBytes.drop s.ip).foldl crcStep s.hcrcAcc else s.hcrcAcc } := by
  have pulled : pulledBytes s ⟨s.bitbuf, 8, []⟩ = s.inBytes.drop s.ip := pulledBytes_eq (by simp)
  simp only [advanceTo, pulled, List.length_drop, Nat.add_sub_cancel' h]

/-- A short read ends with every bit left taken. -/
theorem took_of_short {s : State} (h : Legal s) {x : Expect} (hx : expected s = some x) {k : Capture} {c : Cursor}
    (hd : decode x (cursorOf s) = .short k c) :
    MayCapture x k ∧ Took (elementStart x (cursorOf s)).bits
      (if x = .storedLen ∨ x = .trailer then { s with bitpos := 8 } else s) (advanceTo c s) := by
  have ways := h.decode_says hx
  rw [hd] at ways
  cases ways with
  | short _ bs _ p hf dry =>
    have all : (elementStart x (cursorOf s)).bits = bs := by
      rw [hf.bits, Cursor.bits_of_dry dry, List.append_nil]
    exact ⟨p, all ▸ took_advance h.values.placed hf⟩

/-! ### What the fields hold after a short read (R18, R705) -/

theorem applyCapture_gzFixedRead (l : List Byte) (s : State) :
    applyCapture (gzFixedRead l) s = { s with
      hdrCm := if 3 ≤ l.length then 8 else s.hdrCm
      hdrFlg := if 4 ≤ l.length then l.getD 3 0 else s.hdrFlg
      hdrMtime := if 8 ≤ l.length then leU32 (l.getD 4 0) (l.getD 5 0) (l.getD 6 0) (l.getD 7 0) else s.hdrMtime
      hdrXfl := if 9 ≤ l.length then l.getD 8 0 else s.hdrXfl } := by
  unfold gzFixedRead
  split_ifs <;> first | omega | rfl

theorem applyCapture_trailerRead (l : List Byte) (s : State) :
    applyCapture (trailerRead l) s = { s with
      trlCrc := if 4 ≤ l.length then leU32 (l.getD 0 0) (l.getD 1 0) (l.getD 2 0) (l.getD 3 0) else s.trlCrc } := by
  unfold trailerRead
  split_ifs <;> first | omega | rfl

/-- A field's value is below its range. -/
theorem bitsValue_lt (bs : List Bool) : bitsValue bs < 2 ^ bs.length := by
  have := (BitVec.ofNat bs.length (bitsValue bs)).isLt
  rwa [← bitsValue_fieldBits, fieldBits_ofNat_bitsValue] at this

theorem hlitCount_ofNat {n : Nat} (h : n < 32) : hlitCount (BitVec.ofNat 5 n) = BitVec.ofNat 9 (n + 257) :=
  BitVec.eq_of_toNat_eq (by rw [hlitCount_toNat, BitVec.toNat_ofNat, BitVec.toNat_ofNat]; omega)

theorem hdistCount_ofNat {n : Nat} (h : n < 32) : hdistCount (BitVec.ofNat 5 n) = BitVec.ofNat 6 (n + 1) :=
  BitVec.eq_of_toNat_eq (by rw [hdistCount_toNat, BitVec.toNat_ofNat, BitVec.toNat_ofNat]; omega)

theorem applyCapture_dynHdrRead (l : List Bool) (s : State) :
    applyCapture (dynHdrRead l) s = { s with
      hlit := if 5 ≤ l.length then BitVec.ofNat 9 (bitsValue (l.take 5) + 257) else s.hlit
      hdist := if 10 ≤ l.length then BitVec.ofNat 6 (bitsValue ((l.drop 5).take 5) + 1) else s.hdist } := by
  have five : ∀ bs : List Bool, bitsValue (bs.take 5) < 32 := fun bs =>
    (bitsValue_lt _).trans_le (Nat.pow_le_pow_right (by decide) (List.length_take_le 5 bs))
  rw [← hlitCount_ofNat (five l), ← hdistCount_ofNat (five (l.drop 5))]
  unfold dynHdrRead
  split_ifs <;> first | omega | rfl

theorem getElem?_foldl_set_of_notMem {n : Nat} {os : List Nat} {l : List (BitVec 3)} {v : Vector (BitVec 3) n} {o : Nat}
    (h : o ∉ os) : ((os.zip l).foldl (fun v p => v.setIfInBounds p.1 p.2) v)[o]? = v[o]? := by
  induction os generalizing l v with
  | nil => rfl
  | cons o' os ih =>
    obtain ⟨other, h⟩ := List.ne_and_not_mem_of_not_mem_cons h
    rcases l with _ | ⟨a, l⟩
    · rfl
    · exact (ih h).trans (Vector.getElem?_setIfInBounds_ne other.symm)

/-- Setting the places `os` one by one to the values `l` gives place `k` of them value `k`, the places past the values
keep what they held. -/
theorem getElem?_foldl_set {n : Nat} {os : List Nat} (hn : os.Nodup) (l : List (BitVec 3)) (v : Vector (BitVec 3) n)
    {k o : Nat} (hk : os[k]? = some o) (ho : o < n) :
    ((os.zip l).foldl (fun v p => v.setIfInBounds p.1 p.2) v)[o]? = (l[k]?).or v[o]? := by
  induction os generalizing l v k with
  | nil => simp at hk
  | cons o' os ih =>
    obtain ⟨new, hn⟩ := List.nodup_cons.mp hn
    rcases l with _ | ⟨a, l⟩
    · simp
    rcases k with _ | k
    · obtain rfl : o' = o := by simpa using hk
      exact (getElem?_foldl_set_of_notMem new).trans (by simp [ho])
    · have hk : os[k]? = some o := by simpa using hk
      have other : o' ≠ o := fun e => new (e ▸ List.mem_of_getElem? hk)
      simpa [Vector.getElem?_setIfInBounds_ne other] using ih hn l (v.setIfInBounds o' a) hk

/-- ORDER names each of the 19 symbols once (R207). -/
theorem loadClLens_order (cll : List (BitVec 3)) {k : Nat} (hk : k < 19) :
    (loadClLens cll).toList[clOrder.getD k 0]? = some (cll.getD k 0) := by
  have order : ∀ k < 19, clOrder[k]? = some (clOrder.getD k 0) ∧ clOrder.getD k 0 < 19 := by decide
  obtain ⟨ho, hlt⟩ := order k hk
  generalize clOrder.getD k 0 = o at ho hlt ⊢
  rw [Vector.getElem?_toList, loadClLens, getElem?_foldl_set (by decide) cll _ ho hlt]
  cases e : cll[k]? <;> simp [e, hlt]

section
variable {s : State} (h : Legal s) (he : s.inEnd = true)
include h he

theorem gzFixed_ends (hp : s.phase = .gzFixed) {l : List Byte} (hl : s.inBytes.drop s.ip = l) (hlen : l.length < 10)
    (hm : l.length < 2 ∨ l.take 3 <+: [0x1F, 0x8B, 0x08]) :
    engineStep s = .next (raise .unexpectedEndOfInput { s with
      ip := s.inBytes.length
      hcrcAcc := l.foldl crcStep s.hcrcAcc
      hdrCm := if 3 ≤ l.length then 8 else s.hdrCm
      hdrFlg := if 4 ≤ l.length then l.getD 3 0 else s.hdrFlg
      hdrMtime := if 8 ≤ l.length then leU32 (l.getD 4 0) (l.getD 5 0) (l.getD 6 0) (l.getD 7 0) else s.hdrMtime
      hdrXfl := if 9 ≤ l.length then l.getD 8 0 else s.hdrXfl }) := by
  have hx : expected s = some .gzFixed := by simp [expected, hp]
  have h8 : s.bitpos = 8 := h.ready.aligned (by simp [hp, bytePhase])
  have cursor : cursorOf s = ⟨s.bitbuf, 8, l⟩ := by rw [cursorOf, h8, hl]
  have hd : decode .gzFixed (cursorOf s) = .short (gzFixedRead l) ⟨s.bitbuf, 8, []⟩ := by
    rw [cursor]; exact decodeGzFixed_short _ hlen hm
  rw [(raised_of_short hx hd he).2, advanceTo_end h.values.ip, hl, hp, ← h8, applyCapture_gzFixedRead]
  rfl

theorem trailer_ends (hp : s.phase = .trailer) {l : List Byte} (hl : s.inBytes.drop s.ip = l) (hlen : l.length < 8) :
    engineStep s = .next (raise .unexpectedEndOfInput { s with
      ip := s.inBytes.length
      bitpos := 8
      trlCrc := if 4 ≤ l.length then leU32 (l.getD 0 0) (l.getD 1 0) (l.getD 2 0) (l.getD 3 0) else s.trlCrc }) := by
  have hx : expected s = some .trailer := by simp [expected, hp]
  have hd : decode .trailer (cursorOf s) = .short (trailerRead l) ⟨s.bitbuf, 8, []⟩ := by
    rw [cursorOf, hl]; exact decodeTrailer_short _ _ hlen
  rw [(raised_of_short hx hd he).2, advanceTo_end h.values.ip, hp, applyCapture_trailerRead]
  rfl

theorem dynHdr_ends (hp : s.phase = .dynHdr) {l : List Bool} (hl : (cursorOf s).bits = l) (hlen : l.length < 14) :
    ∃ u, Took l s u ∧ engineStep s = .next (raise .unexpectedEndOfInput { u with
      hlit := if 5 ≤ l.length then BitVec.ofNat 9 (bitsValue (l.take 5) + 257) else s.hlit
      hdist := if 10 ≤ l.length then BitVec.ofNat 6 (bitsValue ((l.drop 5).take 5) + 1) else s.hdist }) := by
  subst hl
  have hx : expected s = some .dynHdr := by simp [expected, hp]
  obtain ⟨c, hd, -⟩ := decodeDynHdr_short (cursorOf_fine h.values) hlen
  refine ⟨advanceTo c s, (took_of_short h hx hd).2, ?_⟩
  rw [(raised_of_short hx hd he).2, applyCapture_dynHdrRead]
  rfl

theorem dynCllens_ends (hp : s.phase = .dynCllens) {l : List Bool} (hl : (cursorOf s).bits = l)
    (hlen : l.length < 3 * s.hclen.toNat) :
    ∃ (u : State) (cl : Vector (BitVec 3) 19), Took l s u ∧
      (∀ k, k < 19 → cl.toList[clOrder.getD k 0]? = some
        (if 3 * k + 3 ≤ l.length then BitVec.ofNat 3 (bitsValue ((l.drop (3 * k)).take 3)) else 0)) ∧
      engineStep s = .next (raise .unexpectedEndOfInput { u with clLens := cl }) := by
  subst hl
  have hx : expected s = some (.dynCllens s.hclen.toNat) := by simp [expected, hp]
  obtain ⟨c, hd, -⟩ := decodeCllens_short s.hclen.toNat [] (cursorOf_fine h.values) hlen
  refine ⟨advanceTo c s, loadClLens (cllFields (cursorOf s).bits), (took_of_short h hx hd).2, fun k hk => ?_, ?_⟩
  · rw [loadClLens_order _ hk, cllFields_getD]
  · exact (raised_of_short hx hd he).2

theorem other_ends {x : Expect} (hx : expected s = some x) {k : Capture} {c : Cursor}
    (hd : decode x (cursorOf s) = .short k c) (h1 : s.phase ≠ .gzFixed) (h2 : s.phase ≠ .dynHdr)
    (h3 : s.phase ≠ .dynCllens) (h4 : s.phase ≠ .trailer) :
    ∃ u, Took (elementStart x (cursorOf s)).bits (if x = .storedLen then { s with bitpos := 8 } else s) u ∧
      engineStep s = .next (raise .unexpectedEndOfInput u) := by
  obtain ⟨hk, took⟩ := took_of_short h hx hd
  obtain ⟨rfl, notTrailer⟩ : k = .nothing ∧ x ≠ .trailer := by
    cases hp : s.phase with
    | gzFixed | dynHdr | dynCllens | trailer => contradiction
    | idle | copy | done | error => simp [expected, hp] at hx
    | symbol =>
      obtain rfl : .llSym _ _ = x := by simpa [expected, hp, h.values.matchLen] using hx
      exact ⟨hk, by simp⟩
    | _ =>
      obtain rfl : _ = x := by simpa [expected, hp] using hx
      exact ⟨hk, by simp⟩
  simp only [notTrailer, or_false] at took
  exact ⟨_, took, (raised_of_short hx hd he).2⟩

end

/-- Settles O32: the steps that hold or raise, and, element by element, the fields a short read leaves written. -/
theorem heldStepsChangeNothing : Obligations.HeldStepsChangeNothing := by
  refine ⟨fun s x hx => ⟨fun k c hd => ⟨held_of_short hx hd, raised_of_short hx hd⟩,
    fun e k c hd => raised_of_illegal hx hd, fun is c hd hem ho => held_of_emits hx hd hem ho⟩, fun s h he => ?_⟩
  exact ⟨fun l hl hp => gzFixed_ends h he hp hl, fun l hl hp => dynHdr_ends h he hp hl,
    fun l hl hp => dynCllens_ends h he hp hl, fun l hl hp => trailer_ends h he hp hl,
    fun x k c hx hd => other_ends h he hx hd⟩

end Sys2Proof.Machine
end

section
/-! PROOFS. What the host cannot change (20_memory.md R159, R166): the host's commands other than START, SOFT_RESET,
hardware reset and OutAccept, one case a command. -/

namespace Sys2Proof.Machine

/-- Between `s` and `t` nothing that decoding reads has changed, but for bytes presented behind those there were and the
end of input (R166, R655, R657). -/
def SameDecoding (s t : State) : Prop :=
  ∃ l : List Byte, t = { s with
    ctrlRaw := t.ctrlRaw
    ctrlIrqEn := t.ctrlIrqEn
    inBytes := s.inBytes ++ l
    inEnd := t.inEnd
    regRdata := t.regRdata
    draws := t.draws } ∧ (s.inEnd = true → t.inEnd = true ∧ l = [])

/-- What writes neither the input nor its end. -/
theorem sameDecoding_withRegisters (s : State) (raw irqEn : Bool) (d : Word) (n : Nat) :
    SameDecoding s { s with ctrlRaw := raw, ctrlIrqEn := irqEn, regRdata := d, draws := n } :=
  ⟨[], by simp, fun he => ⟨he, rfl⟩⟩

theorem SameDecoding.refl (s : State) : SameDecoding s s := sameDecoding_withRegisters s _ _ _ _

/-- A write of CTRL with neither command bit writes its two fields (R652). -/
theorem writeCtrl_fieldsOnly {v : Word} (noStart : v.getLsbD 0 = false) (noReset : v.getLsbD 1 = false) (s : State) :
    writeCtrl v s = writeCtrlFields v s := by
  simp only [writeCtrl, noStart, noReset, Bool.false_eq_true, if_false]

/-- A write that is the row RegWrite holds no command (R242). -/
theorem sameDecoding_writeRegister {off : BitVec 6} {v : Word} (hw : (Instr.regWrite off v).wf = true) (s : State) :
    SameDecoding s (writeRegister off v s) := by
  unfold writeRegister
  split_ifs with h0
  · obtain ⟨-, noStart, noReset⟩ : alignedOffset off = true ∧ v.getLsbD 0 = false ∧ v.getLsbD 1 = false := by
      simpa [Instr.wf, h0] using hw
    rw [writeCtrl_fieldsOnly noStart noReset]
    exact sameDecoding_withRegisters s _ _ _ _
  · exact .refl s

theorem inEnd_of_inReady {s : State} (h : inReady s = true) : s.inEnd = false := by
  simp only [inReady, Bool.and_eq_true, Bool.not_eq_true'] at h
  exact h.1.2

/-- Settles O49: one case a command; a byte is taken only before the end of input. -/
theorem hostCannotChangeWhatIsDecoded : Obligations.HostCannotChangeWhatIsDecoded := by
  intro i s t hw hf noStart noReset noHardReset noAccept ht
  change SameDecoding s t
  cases i with
  | start v => exact absurd rfl (noStart v)
  | softReset v => exact absurd rfl (noReset v)
  | hardReset => exact absurd rfl noHardReset
  | outAccept => exact absurd rfl noAccept
  | regWrite off v =>
    have aligned : alignedOffset off = true := (Bool.and_eq_true_iff.mp hw).1
    obtain rfl : writeRegister off v s = t := by simpa [exec, execRegWrite, aligned] using ht
    exact sameDecoding_writeRegister hw s
  | regRead off =>
    have aligned : alignedOffset off = true := hw
    simp only [exec, execRegRead, aligned, if_true, Host.Outcome.next.injEq] at ht
    exact ht ▸ sameDecoding_withRegisters s _ _ _ _
  | pushByte b =>
    cases ht
    split_ifs with hr
    · exact ⟨[b], rfl, fun he => by simp [inEnd_of_inReady hr] at he⟩
    · exact .refl s
  | endInput =>
    cases ht
    split_ifs
    · exact ⟨[], by simp, fun _ => ⟨rfl, rfl⟩⟩
    · exact .refl s
  | _ => simp [Instr.format] at hf

end Sys2Proof.Machine
end

section
/-! PROOFS. Every turn from a legal state completes (20_memory.md R155, 40_bit_unpacker.md R308), but for the accesses
of the host that are refused (R157): one lemma a rule, an element, a command and a turn. -/

namespace Sys2Proof.Machine

/-- The outcome is a next state: no fault and no refusal. -/
def Completes (o : Host.Outcome State Fault Refusal) : Prop := ∃ t, o = .next t

theorem completes_next (s : State) : Completes (.next s) := ⟨s, rfl⟩

theorem completes_emitOrHold (b : Byte) (u s : State) : Completes (emitOrHold b u s) := by
  unfold emitOrHold
  split <;> exact completes_next _

/-! ### The elements -/

/-- A stream instruction stops only where a distance symbol has no length symbol before it (R210, R453). -/
theorem StreamRule.completes {i : Instr} {f : State → Host.Outcome State Fault Refusal} (h : StreamRule i f) {s : State}
    (hd : i.format = .dSym → s.matchLen ≠ none) : Completes (f s) := by
  cases h with
  | storedCopy b => exact completes_emitOrHold _ _ _
  | literal b => exact completes_emitOrHold _ _ _
  | distance _ base dx hi =>
    obtain ⟨len, e⟩ := Option.ne_none_iff_exists'.mp (hd hi)
    exact ⟨_, by rw [finishMatch, e]⟩
  | noDistance _ hi =>
    obtain ⟨len, e⟩ := Option.ne_none_iff_exists'.mp (hd hi)
    exact ⟨_, by rw [rejectDistance, e]⟩
  | _ => exact completes_next _

/-- Where no distance symbol is asked for alone, an element is one instruction that is none, or a length symbol and its
distance symbol (R453). -/
theorem shape_one_or_lenDist {x : Expect} {is : List Instr} (hx : ∀ l, x ≠ .dSym l) (h : Shape x is) :
    (∃ i, is = [i] ∧ i.format ≠ .dSym) ∨ ∃ i j, is = [i, j] ∧ matchLengthOf i ≠ none ∧ j.format = .dSym := by
  cases x with
  | gzFixed => obtain ⟨_, _, _, _, rfl⟩ := h; simp [Instr.format]
  | blkHdr => obtain ⟨_, rfl | rfl | rfl | rfl⟩ := h <;> simp [Instr.format]
  | storedLen | trailer => obtain ⟨_, _, rfl⟩ := h; simp [Instr.format]
  | dynHdr => obtain ⟨_, _, _, rfl⟩ := h; simp [Instr.format]
  | dynCllens => obtain ⟨_, rfl, -⟩ := h; simp [Instr.format]
  | clSym => obtain ⟨_, rfl, hi⟩ := h; simp [hi]
  | dSym l => exact absurd rfl (hx l)
  | llSym =>
    obtain ⟨i, rfl, hi, -⟩ | ⟨i, j, e, -, hn, hj⟩ := h
    · simp [hi]
    · exact .inr ⟨i, j, e, hn, hj⟩
  | _ => obtain ⟨_, rfl⟩ := h; simp [Instr.format]

/-- A distance symbol finds the length of the length symbol before it. -/
theorem completes_execAll {x : Expect} {is : List Instr} (hx : ∀ l, x ≠ .dSym l) (h : Shape x is) (s : State) :
    Completes (execAll is s) := by
  have stream := shape_format h
  rcases shape_one_or_lenDist hx h with ⟨i, rfl, hi⟩ | ⟨i, j, rfl, hi, hj⟩
  · rw [execAll_one]
    exact (exec_rule (stream i (by simp))).completes fun e => absurd e hi
  · obtain ⟨n, hn⟩ := Option.ne_none_iff_exists'.mp hi
    rw [execAll_two ((length_symbol_exec i n hn).2 s)]
    exact (exec_rule (stream j (by simp))).completes fun _ => by simp

/-! ### The engine's turn -/

/-- Between steps no match length waits, so no phase asks for a distance symbol alone (R453). -/
theorem Legal.expected_ne_dSym {s : State} (h : Legal s) {x : Expect} (hx : expected s = some x) (l : List Nat) :
    x ≠ .dSym l := by
  rintro rfl
  cases hp : s.phase <;> simp [expected, hp, h.values.matchLen] at hx

theorem completes_runElement {s : State} (h : Legal s) {x : Expect} (hx : expected s = some x) :
    Completes (runElement x s) := by
  have ways := h.fetch_says hx
  unfold runElement
  generalize fetch x s = r at ways
  cases ways with
  | got is bs c spelled =>
    dsimp only
    split
    · exact completes_next s
    · exact completes_execAll (h.expected_ne_dSym hx) spelled.1 _
  | illegal => exact completes_next _
  | ended => exact completes_next _
  | hold => exact completes_next s

theorem completes_engineStep {s : State} (h : Legal s) : Completes (engineStep s) := by
  unfold engineStep
  split_ifs
  · exact completes_emitOrHold _ _ _
  · split
    · exact completes_next s
    · exact completes_runElement h ‹_›

/-! ### The host's turn -/

/-- A register access is refused by its offset alone (R157), which a well-formed command has aligned. -/
theorem completes_hostCommand {i : Instr} (hf : i.format = .host) (hw : i.wf = true) (s : State) :
    Completes (exec i s) := by
  cases i with
  | start | softReset | pushByte | endInput | outAccept | hardReset => exact completes_next _
  | regWrite off v => exact ⟨_, if_pos (Bool.and_eq_true_iff.mp hw).1⟩
  | regRead off => exact ⟨_, if_pos hw⟩
  | _ => simp [Instr.format] at hf

/-- A write at an aligned offset is well formed as the row it is given (R242). -/
theorem regWriteInstr_wf {off : BitVec 6} (h : alignedOffset off = true) (v : Word) :
    (regWriteInstr off v).wf = true := by
  unfold regWriteInstr
  split_ifs with reset start
  · exact reset.2
  · have noReset : v.getLsbD 1 = false := by simpa [start.1] using reset
    simp only [Instr.wf, start.2, noReset, Bool.not_false, Bool.and_self]
  · rcases eq_or_ne off 0 with rfl | h0
    · have noCommand : v.getLsbD 0 = false ∧ v.getLsbD 1 = false :=
        ⟨by simpa only [true_and, Bool.not_eq_true] using start, by simpa only [true_and, Bool.not_eq_true] using reset⟩
      simp only [Instr.wf, h, noCommand, Bool.or_self, Bool.and_false, Bool.not_false, Bool.and_self]
    · simp only [Instr.wf, h, beq_eq_false_iff_ne.mpr h0, Bool.false_and, Bool.not_false, Bool.and_self]

theorem decodeOffset_wf {off : BitVec 6} {i j : Instr} (hi : alignedOffset off = true → i.wf = true)
    (h : decodeOffset off i = .command j) : j.wf = true := by
  unfold decodeOffset at h
  split_ifs at h with aligned
  cases h
  exact hi aligned

/-- The offset of an access that begins at a multiple of 4 in the block is aligned (R157). -/
theorem alignedOffset_ofNat {n : Nat} (h : n % 4 = 0) : alignedOffset (BitVec.ofNat 6 n) = true := by
  simp only [alignedOffset, BitVec.toNat_ofNat, beq_iff_eq]
  omega

theorem decodeAccess_wf {base addr n : Nat} {f : BitVec 6 → Instr} {j : Instr}
    (hf : ∀ off, alignedOffset off = true → (f off).wf = true) (h : decodeAccess base addr n f = .command j) :
    j.wf = true := by
  unfold decodeAccess at h
  split_ifs at h with _ access
  cases h
  exact hf _ (alignedOffset_ofNat access.2)

/-- The transfers decode to well-formed commands (R157, R242). -/
theorem decodeHost_wf {g : Signal} {i : Instr} (h : decodeHost g = .command i) : i.wf = true := by
  unfold decodeHost at h
  cases g with
  | rst | inByte b | inEnd | outTransfer => cases h; rfl
  | regWrite off v => exact decodeOffset_wf (regWriteInstr_wf · v) h
  | regRead off => exact decodeOffset_wf id h
  | memWrite addr data => exact decodeAccess_wf (fun _ ha => regWriteInstr_wf ha _) h
  | memRead addr n => exact decodeAccess_wf (f := .regRead) (fun _ ha => ha) h
  | outReady b => cases h

/-- A transfer completes or is refused under its name (R157). -/
theorem hostStep_cases (g : Signal) (s : State) :
    Completes (hostStep g s) ∨ (decodeHost g = .badAccess ∧ hostStep g s = .refused .badRegisterAccess) ∨
      (decodeHost g = .elsewhere ∧ hostStep g s = .refused .notRegisterBlock) := by
  unfold hostStep
  cases e : decodeHost g with
  | command i => exact .inl (completes_hostCommand (decodeHost_format e) (decodeHost_wf e) s)
  | outLevel b => exact .inl (completes_next _)
  | badAccess => exact .inr (.inl ⟨rfl, rfl⟩)
  | elsewhere => exact .inr (.inr ⟨rfl, rfl⟩)

/-- Settles O52: the engine's turns complete, and the host's by what the transfer decodes to. -/
theorem legalStatesNeverFault : Obligations.LegalStatesNeverFault := by
  intro s h
  change Completes (step s) ∨ _
  unfold step
  cases ha : s.agenda with
  | nil => exact .inl (completes_engineStep h)
  | cons turn rest =>
    cases turn with
    | engine => exact .inl (completes_engineStep (h.withLines ..))
    | inFlow b => exact .inl (completes_next _)
    | host g => exact (hostStep_cases g _).imp_right fun refused => ⟨g, rest, rfl, refused⟩

end Sys2Proof.Machine
end

section
/-! PROOFS. The canonical codes (42_huffman.md R400 to R404): which symbol a code stands for, how much of the code space
the shorter codes take, and Decode as a walk down the code lengths. -/

namespace Sys2Proof

/-! ### The symbols of one length -/

theorem symbolsOfLength_eq_idxsOf (lens : List Nat) (l : Nat) : symbolsOfLength lens l = lens.idxsOf l := by
  rw [List.idxsOf_eq_filterMap_zipIdx, symbolsOfLength]
  refine List.filterMap_congr fun p _ => ?_
  by_cases h : p.1 = l
  · simp [h]
  · simp [h, beq_eq_false_iff_ne.mpr h]

@[simp] theorem length_symbolsOfLength (lens : List Nat) (l : Nat) :
    (symbolsOfLength lens l).length = lens.count l := by
  rw [symbolsOfLength_eq_idxsOf, List.length_idxsOf]

/-- Symbol `s` stands in the list of its length at the number of smaller symbols of that length (R400). -/
theorem getElem?_symbolsOfLength {lens : List Nat} {l k s : Nat} :
    (symbolsOfLength lens l)[k]? = some s ↔ lens[s]? = some l ∧ (lens.take s).count l = k := by
  simp only [symbolsOfLength_eq_idxsOf, List.getElem?_eq_some_iff, List.getElem_idxOf_eq_idxOfNth, List.length_idxsOf,
    ← List.countBefore_eq_count_take]
  constructor
  · rintro ⟨hk, rfl⟩
    exact ⟨⟨List.idxOfNth_lt_length_of_lt_count hk, List.getElem_idxOfNth_eq⟩,
      List.countBefore_idxOfNth_of_lt_count hk⟩
  · rintro ⟨⟨hs, rfl⟩, rfl⟩
    exact ⟨List.countBefore_lt_count_getElem, List.idxOfNth_countBefore_getElem⟩

/-! ### The code space -/

/-- The number after the last code of length `l`: the codes of up to `l` bits begin all smaller numbers of `l` bits. -/
def codesEnd (lens : List Nat) (l : Nat) : Nat := firstCode lens l + if l = 0 then 0 else lens.count l

theorem firstCode_succ (lens : List Nat) (l : Nat) : firstCode lens (l + 1) = 2 * codesEnd lens l := by
  rw [firstCode, Nat.shiftLeft_eq, codesEnd]
  omega

theorem codesEnd_succ (lens : List Nat) (l : Nat) :
    codesEnd lens (l + 1) = 2 * codesEnd lens l + lens.count (l + 1) := by
  rw [codesEnd, firstCode_succ, if_neg (Nat.succ_ne_zero l)]

/-- Longer codes come after all that begins with a shorter one. -/
theorem codesEnd_mul_le_firstCode (lens : List Nat) (l k : Nat) :
    codesEnd lens l * 2 ^ (k + 1) ≤ firstCode lens (l + (k + 1)) := by
  induction k with
  | zero => rw [firstCode_succ]; omega
  | succ k ih =>
    have end_ge : firstCode lens (l + (k + 1)) ≤ codesEnd lens (l + (k + 1)) := Nat.le_add_right _ _
    rw [← Nat.add_assoc l (k + 1) 1, firstCode_succ, Nat.pow_succ, ← Nat.mul_assoc]
    omega

theorem codesEnd_le_of_oversubLoop {lens : List Nat} {left l k : Nat} (free : left + codesEnd lens l = 2 ^ l)
    (h : oversubLoop left ((List.range' (l + 1) k).map fun l => lens.count l) = false) {j : Nat} (hj : j ≤ k) :
    codesEnd lens (l + j) ≤ 2 ^ (l + j) := by
  induction k generalizing left l j with
  | zero =>
    obtain rfl : j = 0 := by omega
    rw [Nat.add_zero]; omega
  | succ k ih =>
    rw [List.range'_succ, List.map_cons, oversubLoop] at h
    split_ifs at h
    cases j with
    | zero => rw [Nat.add_zero]; omega
    | succ j =>
      rw [← Nat.succ_add_eq_add_succ]
      refine ih ?_ h (by omega)
      rw [codesEnd_succ, Nat.pow_succ]
      omega

/-- R401, R403: the codes of a table that is not over-subscribed fit in their lengths. -/
theorem codesEnd_le {lens : List Nat} {maxbits l : Nat} (sound : oversubscribed lens maxbits = false)
    (hl : l ≤ maxbits) : codesEnd lens l ≤ 2 ^ l := by
  simpa using codesEnd_le_of_oversubLoop (l := 0) (left := 1) rfl sound hl

/-! ### Codes as bits -/

/-- A code one bit longer ends with that bit. -/
theorem msbBits_concat (l v : Nat) (b : Bool) : msbBits (l + 1) (2 * v + b.toNat) = msbBits l v ++ [b] := by
  induction l with
  | zero => cases b <;> simp [msbBits]
  | succ l ih =>
    rw [msbBits, ih, msbBits, List.cons_append, Nat.testBit_succ]
    congr 2
    cases b
    · simp
    · simp; omega

/-- A code's number without its last `k` bits, read one bit further. -/
theorem div_two_pow_succ (p k : Nat) : 2 * (p / 2 ^ (k + 1)) + (p.testBit k).toNat = p / 2 ^ k := by
  rw [Nat.pow_succ, ← Nat.div_div_eq_div_mul, Nat.testBit_eq_decide_div_mod_eq]
  rcases Nat.mod_two_eq_zero_or_one (p / 2 ^ k) with h | h <;> simp [h] <;> omega

/-! ### Decode -/

/-- How many symbols have a length from 1 to `l`. -/
def shorterSymbols (lens : List Nat) (l : Nat) : Nat := ((List.range' 1 l).map fun l => lens.count l).sum

theorem getElem?_syms {lens : List Nat} {maxbits l k : Nat} (hl : l < maxbits) (hk : k < lens.count (l + 1)) :
    (buildTable lens maxbits).syms[shorterSymbols lens l + k]? = (symbolsOfLength lens (l + 1))[k]? := by
  obtain ⟨m, rfl⟩ : ∃ m, maxbits = l + (m + 1) := ⟨maxbits - l - 1, by omega⟩
  have shorter : ((List.range' 1 l).flatMap fun l => symbolsOfLength lens l).length = shorterSymbols lens l := by
    simp [shorterSymbols, List.length_flatMap]
  simp only [buildTable, ← List.range'_append, List.flatMap_append, List.range'_succ, List.flatMap_cons]
  rw [List.getElem?_append_right (by omega), shorter, List.getElem?_append_left (by simpa [Nat.add_comm] using hk)]
  rw [Nat.add_sub_cancel_left, Nat.one_mul, Nat.add_comm 1 l]

/-- Decode (R404) after `l` bits of value `v` that are no code. -/
def huffFrom (lens : List Nat) (maxbits l v : Nat) (c : Cursor) : Read (Option Nat) :=
  huffLoop (buildTable lens maxbits).syms ((List.range' (l + 1) (maxbits - l)).map fun l => lens.count l) (2 * v)
    (firstCode lens (l + 1)) (shorterSymbols lens l) c

theorem huffDecode_eq_huffFrom (lens : List Nat) (maxbits : Nat) (c : Cursor) :
    huffDecode (buildTable lens maxbits) c = huffFrom lens maxbits 0 0 c := rfl

theorem huffFrom_end (lens : List Nat) (maxbits v : Nat) (c : Cursor) :
    huffFrom lens maxbits maxbits v c = .ok none c := by
  rw [huffFrom, Nat.sub_self]; rfl

/-- One turn of Decode (R404): the next bit ends a code where the bits read are below the codes' end. -/
theorem huffFrom_step {lens : List Nat} {maxbits l v : Nat} (hl : l < maxbits) (hv : codesEnd lens l ≤ v) (c : Cursor) :
    huffFrom lens maxbits l v c = (readBit c).bind fun b c' =>
      if 2 * v + b.toNat < codesEnd lens (l + 1) then
        .ok (symbolsOfLength lens (l + 1))[2 * v + b.toNat - firstCode lens (l + 1)]? c'
      else huffFrom lens maxbits (l + 1) (2 * v + b.toNat) c' := by
  obtain ⟨m, rfl⟩ : ∃ m, maxbits = l + (m + 1) := ⟨maxbits - l - 1, by omega⟩
  have first := firstCode_succ lens l
  have lor (b : Bool) : 2 * v ||| b.toNat = 2 * v + b.toNat := by
    have := Nat.two_pow_add_eq_or_of_lt (b := b.toNat) (i := 1) (by cases b <;> decide) v
    simpa using this.symm
  rw [huffFrom, Nat.add_sub_cancel_left, List.range'_succ, List.map_cons, huffLoop]
  congr 1
  funext b c'
  have below : 2 * v + b.toNat - firstCode lens (l + 1) < lens.count (l + 1) ↔ 2 * v + b.toNat < codesEnd lens (l + 1) := by
    rw [codesEnd_succ]; omega
  simp only [lor, below]
  split_ifs with h
  · rw [getElem?_syms hl (below.mpr h)]
  · have rest : l + (m + 1) - (l + 1) = m := by omega
    have shorter : shorterSymbols lens (l + 1) = shorterSymbols lens l + lens.count (l + 1) := by
      simp [shorterSymbols, List.range'_concat, Nat.add_comm]
    rw [huffFrom, rest, shorter, firstCode_succ lens (l + 1), codesEnd_succ, ← first, Nat.shiftLeft_eq, Nat.shiftLeft_eq]
    congr 1 <;> omega

/-- The symbol with a length and a code (R402). -/
theorem symbol_iff {lens : List Nat} {l p s : Nat} (hl : l ≠ 0) (hp : firstCode lens l ≤ p) :
    (symbolsOfLength lens l)[p - firstCode lens l]? = some s ↔ lens.getD s 0 = l ∧ codeOf lens s = p := by
  have length : lens[s]? = some l ↔ lens.getD s 0 = l := by
    rw [List.getD_eq_getElem?_getD]
    cases lens[s]? <;> simp [hl.symm]
  rw [getElem?_symbolsOfLength, length]
  refine and_congr_right fun e => ?_
  rw [codeOf, e]
  omega

theorem codeOf_lt_codesEnd {lens : List Nat} {s : Nat} (h : 0 < lens.getD s 0) :
    codeOf lens s < codesEnd lens (lens.getD s 0) := by
  have found := (symbol_iff (lens := lens) (p := codeOf lens s) h.ne' (Nat.le_add_right _ _)).mpr ⟨rfl, rfl⟩
  have := (List.getElem?_eq_some_iff.mp found).1
  rw [length_symbolsOfLength] at this
  rw [codesEnd, if_neg h.ne']
  omega

/-- Decode answers only symbols that have a code, and then the bits read are that code. -/
theorem huffFrom_says {lens : List Nat} {maxbits : Nat} (sound : oversubscribed lens maxbits = false) {l v : Nat}
    (hl : l ≤ maxbits) (hv : codesEnd lens l ≤ v) {c : Cursor} (h : c.Fine) :
    Says false (fun o bs => ∀ s, o = some s → hasCode lens maxbits s ∧ codeBits lens s = msbBits l v ++ bs) c
      (huffFrom lens maxbits l v c) := by
  obtain ⟨m, rfl⟩ : ∃ m, maxbits = l + m := ⟨maxbits - l, by omega⟩
  induction m generalizing l v c with
  | zero => rw [Nat.add_zero, huffFrom_end]; exact .done h (by simp) (by simp)
  | succ m ih =>
    rw [huffFrom_step (by omega) hv]
    refine (readBit_says h).bind fun b bs c' hb hc' _ => ?_
    subst hb
    have longer : msbBits l v ++ [b] = msbBits (l + 1) (2 * v + b.toNat) := (msbBits_concat l v b).symm
    split_ifs with below
    · refine .done hc' (by simp) fun s hs => ?_
      obtain ⟨length, code⟩ := (symbol_iff (Nat.succ_ne_zero l) (by rw [firstCode_succ]; omega)).mp hs
      exact ⟨⟨by omega, by omega, sound⟩, by rw [List.append_nil, longer, codeBits, length, code]⟩
    · have one_more : l + (m + 1) = l + 1 + m := by omega
      rw [one_more] at sound ⊢
      refine (ih (by omega) hc' sound (by omega)).mono fun o bs ho s hs => ?_
      obtain ⟨code, bits⟩ := ho s hs
      exact ⟨code, by rw [bits, ← longer, List.append_assoc]⟩

/-- One turn of Decode within a code: `k` bits of it are left after this one. -/
theorem huffFrom_step_of_code {lens : List Nat} {maxbits s k l : Nat} (code : hasCode lens maxbits s)
    (hk : lens.getD s 0 = l + (k + 1)) {c c' : Cursor} (bit : readBit c = .ok ((codeOf lens s).testBit k) c') :
    huffFrom lens maxbits l (codeOf lens s / 2 ^ (k + 1)) c =
      if k = 0 then .ok (some s) c' else huffFrom lens maxbits (l + 1) (codeOf lens s / 2 ^ k) c' := by
  obtain ⟨used, fits, -⟩ := code
  have first : firstCode lens (l + (k + 1)) ≤ codeOf lens s := hk ▸ Nat.le_add_right _ _
  have after {m n : Nat} (e : l + (k + 1) = m + (n + 1)) : codesEnd lens m ≤ codeOf lens s / 2 ^ (n + 1) :=
    (Nat.le_div_iff_mul_le (by positivity)).mpr ((codesEnd_mul_le_firstCode lens m n).trans (e ▸ first))
  rw [huffFrom_step (by omega) (after rfl), bit]
  simp only [Read.bind, div_two_pow_succ]
  cases k with
  | zero =>
    have last := codeOf_lt_codesEnd used
    rw [hk] at last
    rw [Nat.pow_zero, Nat.div_one, if_pos last, if_pos rfl, (symbol_iff (Nat.succ_ne_zero l) first).mpr ⟨hk, rfl⟩]
  | succ k => rw [if_neg (Nat.not_lt.mpr (after (by omega))), if_neg (Nat.succ_ne_zero k)]

/-- Decode answers a symbol whose code comes next: `k + 1` bits of it are still to be read. -/
theorem huffFrom_takes {lens : List Nat} {maxbits s k l : Nat} (code : hasCode lens maxbits s)
    (hk : lens.getD s 0 = l + (k + 1)) {c : Cursor} {rest : List Bool} (h : c.Fine)
    (hb : c.bits = msbBits (k + 1) (codeOf lens s) ++ rest) :
    ∃ c', Takes (huffFrom lens maxbits l (codeOf lens s / 2 ^ (k + 1)) c) c (msbBits (k + 1) (codeOf lens s))
      (some s) c' := by
  induction k generalizing l c with
  | zero =>
    obtain ⟨c', bit, took⟩ := readBit_takes h hb
    exact ⟨c', by rw [huffFrom_step_of_code code hk bit, if_pos rfl], took⟩
  | succ k ih =>
    obtain ⟨c', bit, took⟩ := readBit_takes h hb
    have left : c'.bits = msbBits (k + 1) (codeOf lens s) ++ rest := (List.cons.inj (hb.symm.trans took.bits)).2.symm
    obtain ⟨c'', answer, took'⟩ := ih (l := l + 1) (by omega) took.fine left
    exact ⟨c'', by rw [huffFrom_step_of_code code hk bit, if_neg (Nat.succ_ne_zero k), answer], took.trans took'⟩

/-- R404: where Decode answers a symbol, the bits read are its code. -/
theorem huffDecode_spells {lens : List Nat} {maxbits : Nat} (sound : oversubscribed lens maxbits = false) {c : Cursor}
    (h : c.Fine) :
    Says false (fun o bs => ∀ s, o = some s → hasCode lens maxbits s ∧ bs = codeBits lens s) c
      (huffDecode (buildTable lens maxbits) c) := by
  rw [huffDecode_eq_huffFrom]
  exact (huffFrom_says sound (Nat.zero_le _) (Nat.zero_le _) h).mono fun o bs ho s hs => ⟨(ho s hs).1, (ho s hs).2.symm⟩

/-- R404: Decode answers a symbol whose code comes next. -/
theorem huffDecode_takes {lens : List Nat} {maxbits s : Nat} (code : hasCode lens maxbits s) {c : Cursor}
    {rest : List Bool} (h : c.Fine) (hb : c.bits = codeBits lens s ++ rest) :
    ∃ c', Takes (huffDecode (buildTable lens maxbits) c) c (codeBits lens s) (some s) c' := by
  obtain ⟨k, hk⟩ : ∃ k, lens.getD s 0 = k + 1 := Nat.exists_eq_succ_of_ne_zero code.1.ne'
  have fits : codeOf lens s < 2 ^ (k + 1) := by
    rw [← hk]
    exact (codeOf_lt_codesEnd code.1).trans_le (codesEnd_le code.2.2 code.2.1)
  rw [codeBits, hk] at hb ⊢
  have walk := huffFrom_takes code (hk.trans (Nat.zero_add _).symm) h hb
  rwa [Nat.div_eq_of_lt fits, ← huffDecode_eq_huffFrom] at walk

end Sys2Proof
end

section
/-! PROOFS. Decode and encode are inverse (30_encoding.md R200 to R211): the rows of the symbol tables, what an element
that is read spells, and what reading an element's encoding answers. -/

namespace Sys2Proof

/-! ### The rows of the symbol tables -/

theorem getElem?_clInstrs {s : Nat} {f : Nat → Instr} (h : clInstrs[s]? = some f) (v : Nat) :
    (f v).format = .clSym ∧ (f v).selector = s ∧ (f v).operandBits = fieldBits (BitVec.ofNat (clExtra s) v) := by
  have hs : s < 19 := (List.getElem?_eq_some_iff.mp h).1
  interval_cases s
  all_goals
    obtain rfl := Option.some.inj h
    exact ⟨rfl, rfl, rfl⟩

theorem getElem?_distInstrs {s : Nat} {f : Nat → Instr} (h : distInstrs[s]? = some f) (v : Nat) :
    (f v).format = .dSym ∧ (f v).selector = s ∧
      (f v).operandBits = fieldBits (BitVec.ofNat (distExtra.getD s 0) v) := by
  have hs : s < 32 := (List.getElem?_eq_some_iff.mp h).1
  interval_cases s
  all_goals
    obtain rfl := Option.some.inj h
    exact ⟨rfl, rfl, rfl⟩

theorem getElem?_lengthInstrs {k : Nat} {f : Nat → Instr} (h : lengthInstrs[k]? = some f) (v : Nat) :
    (f v).selector = k + 257 ∧ (f v).operandBits = fieldBits (BitVec.ofNat (lengthExtra.getD k 0) v) := by
  have hk : k < 29 := (List.getElem?_eq_some_iff.mp h).1
  interval_cases k
  all_goals
    obtain rfl := Option.some.inj h
    exact ⟨rfl, rfl⟩

theorem exists_clInstr {i : Instr} (h : i.format = .clSym) :
    ∃ f v, clInstrs[i.selector]? = some f ∧ v < 2 ^ clExtra i.selector ∧ f v = i := by
  cases i <;> simp only [Instr.format, reduceCtorEq] at h
  case cl16 x | cl17 x | cl18 x => exact ⟨_, x.toNat, rfl, x.isLt, by simp⟩
  all_goals exact ⟨_, 0, rfl, Nat.one_pos, rfl⟩

theorem exists_distInstr {i : Instr} (h : i.format = .dSym) :
    ∃ f v, distInstrs[i.selector]? = some f ∧ v < 2 ^ distExtra.getD i.selector 0 ∧ f v = i := by
  cases i <;> simp only [Instr.format, reduceCtorEq] at h
  case dist0 | dist1 | dist2 | dist3 | d30 | d31 => exact ⟨_, 0, rfl, Nat.one_pos, rfl⟩
  all_goals
    rename_i x
    exact ⟨_, x.toNat, rfl, x.isLt, by simp⟩

theorem matchLengthOf_lit (b : Byte) : matchLengthOf (.lit b) = none :=
  if_neg fun h => absurd b.isLt (Nat.not_lt.mpr (Nat.le_of_succ_le h.2))

theorem literal_cases {i : Instr} (h : i.format = .llSym) (hm : matchLengthOf i = none) :
    (∃ b, i = .lit b) ∨ i = .eob ∨ i = .ll286 ∨ i = .ll287 := by
  cases i <;> simp only [Instr.format, reduceCtorEq] at h
  case lit b => exact .inl ⟨b, rfl⟩
  case eob | ll286 | ll287 => simp
  all_goals simp [matchLengthOf, Instr.format, Instr.selector, lengthBase] at hm

theorem exists_lengthInstr {i : Instr} (h : i.format = .llSym) (hm : matchLengthOf i ≠ none) :
    ∃ k f v, i.selector = k + 257 ∧ lengthInstrs[k]? = some f ∧ v < 2 ^ lengthExtra.getD k 0 ∧ f v = i := by
  cases i <;> simp only [Instr.format, reduceCtorEq] at h
  case lit b => exact absurd (matchLengthOf_lit b) hm
  case eob | ll286 | ll287 => exact (hm (by decide)).elim
  case len257 | len258 | len259 | len260 | len261 | len262 | len263 | len264 | len285 =>
    exact ⟨_, _, 0, rfl, rfl, Nat.one_pos, rfl⟩
  all_goals
    rename_i x
    exact ⟨_, _, x.toNat, rfl, rfl, x.isLt, by simp⟩

/-- A row that is found is that of the symbol decoded. -/
theorem symbol_of_row {sym : Option Nat} {rows : List (Nat → Instr)} {extra : Nat → Nat} {n : Nat} {f : Nat → Instr}
    (h : sym.bind (fun s => rows[s]?.map fun f => (extra s, f)) = some (n, f)) :
    ∃ s, sym = some s ∧ rows[s]? = some f ∧ n = extra s := by
  obtain ⟨s, hs, h⟩ := Option.bind_eq_some_iff.mp h
  obtain ⟨g, row, e⟩ := Option.map_eq_some_iff.mp h
  obtain ⟨rfl, rfl⟩ := Prod.mk.inj e
  exact ⟨s, hs, row, rfl⟩

/-! ### The encoding of one instruction -/

theorem encodeInstr_clSym {i : Instr} (h : i.format = .clSym) (cl : List Nat) :
    encodeInstr (.clSym cl) i = codeBits cl i.selector ++ i.operandBits := by
  simp only [encodeInstr, h]

theorem encodeInstr_llSym {i : Instr} (h : i.format = .llSym) (ll d : List Nat) :
    encodeInstr (.llSym ll d) i = codeBits ll i.selector ++ i.operandBits := by
  simp only [encodeInstr, h]

theorem encodeInstr_distance {j : Instr} (h : j.format = .dSym) (ll d : List Nat) :
    encodeInstr (.llSym ll d) j = codeBits d j.selector ++ j.operandBits := by
  simp only [encodeInstr, h]

theorem encodeInstr_dSym {j : Instr} (h : j.format = .dSym) (d : List Nat) :
    encodeInstr (.dSym d) j = codeBits d j.selector ++ j.operandBits := by
  simp only [encodeInstr, h]

theorem encode_pair (x : Expect) (i j : Instr) : encode x [i, j] = encodeInstr x i ++ encodeInstr x j := by
  simp [encode]

theorem encodeInstr_literal {i : Instr} (h : i.format = .llSym) (hm : matchLengthOf i = none) (ll d : List Nat) :
    encodeInstr (.llSym ll d) i = codeBits ll i.selector := by
  have operands : i.operandBits = [] := by rcases literal_cases h hm with ⟨b, rfl⟩ | rfl | rfl | rfl <;> rfl
  rw [encodeInstr_llSym h, operands, List.append_nil]

/-! ### What is read is spelled -/

theorem IsField.ofNat_toNat {n : Nat} {x : BitVec n} {bs : List Bool} (h : IsField x bs) :
    fieldBits (BitVec.ofNat n x.toNat) = bs := by
  rw [BitVec.ofNat_toNat, BitVec.setWidth_eq, ← h]

/-- An element read at `c` meets `P` with the bits it was read from; errors and a short input are not looked at. -/
def Reads (P : List Instr → List Bool → Prop) (c : Cursor) (d : Decoded) : Prop :=
  DecodedSays false P (fun _ _ => True) (fun _ => True) c d

theorem DecodedSays.reads {al : Bool} {P Q : List Instr → List Bool → Prop} {E : Err → Capture → Prop}
    {K : Capture → Prop} {c : Cursor} {d : Decoded} (hd : DecodedSays al P E K c d) (h : ∀ is bs, P is bs → Q is bs) :
    Reads Q c d := by
  cases hd with
  | elem is bs c' p hf => exact .elem is bs c' (h is bs p) hf (by simp)
  | illegal e k bs c' _ hf => exact .illegal e k bs c' trivial hf
  | short k bs c' _ hf dry => exact .short k bs c' trivial hf dry

/-- The element is one of the kind expected, and the bits are its encoding. -/
def IsEncoding (x : Expect) (is : List Instr) (bs : List Bool) : Prop := Admits x is ∧ bs = encode x is

theorem admits_of_shape {x : Expect} {is : List Instr} (hx : plain x = true) (h : Shape x is) : Admits x is := by
  cases x with
  | clSym | llSym | dSym => cases hx
  | gzFixed => obtain ⟨_, _, _, _, rfl⟩ := h; rfl
  | blkHdr => obtain ⟨_, rfl | rfl | rfl | rfl⟩ := h <;> rfl
  | storedLen => obtain ⟨_, _, rfl⟩ := h; trivial
  | storedCopy => obtain ⟨_, rfl⟩ := h; trivial
  | trailer => obtain ⟨_, _, rfl⟩ := h; rfl
  | dynHdr => obtain ⟨_, _, _, rfl⟩ := h; rfl
  | dynCllens => obtain ⟨_, rfl, hn⟩ := h; exact hn
  | _ => obtain ⟨_, rfl⟩ := h; rfl

theorem decodeClSym_reads {cl : List Nat} (sound : oversubscribed cl Config.maxBitsCL = false) {c : Cursor}
    (h : c.Fine) : Reads (IsEncoding (.clSym cl)) c (decodeClSym cl c) := by
  unfold decodeClSym
  refine .andThen (huffDecode_spells sound h) trivial fun sym bs c' hs hc' _ => ?_
  split
  · exact .reject hc' trivial
  rename_i n f found
  obtain ⟨s, rfl, row, rfl⟩ := symbol_of_row found
  obtain ⟨code, rfl⟩ := hs s rfl
  refine .andThen (readBits_says (clExtra_le s) hc') trivial fun x bs' c'' hx hc'' _ => .done hc'' (by simp) ?_
  obtain ⟨format, selector, operands⟩ := getElem?_clInstrs row x.toNat
  refine ⟨⟨format, selector.symm ▸ code⟩, ?_⟩
  rw [encode_single, encodeInstr_clSym format, selector, operands, hx.ofNat_toNat, List.append_nil]

/-- A distance symbol has a code, and the bits are the code and the extra bits (R210). -/
def IsDistance (d : List Nat) (j : Instr) (bs : List Bool) : Prop :=
  j.format = .dSym ∧ hasCode d Config.maxBitsLD j.selector ∧ bs = codeBits d j.selector ++ j.operandBits

theorem decodeDSym_reads {d : List Nat} (sound : oversubscribed d Config.maxBitsLD = false) (before : List Instr)
    {c : Cursor} (h : c.Fine) :
    Reads (fun is bs => ∃ j, is = before ++ [j] ∧ IsDistance d j bs) c (decodeDSym before d c) := by
  unfold decodeDSym
  refine .andThen (huffDecode_spells sound h) trivial fun sym bs c' hs hc' _ => ?_
  split
  · exact .reject hc' trivial
  rename_i n f found
  obtain ⟨s, rfl, row, rfl⟩ := symbol_of_row found
  obtain ⟨code, rfl⟩ := hs s rfl
  refine .andThen (readBits_says (distExtra_le s) hc') trivial fun x bs' c'' hx hc'' _ => .done hc'' (by simp) ?_
  obtain ⟨format, selector, operands⟩ := getElem?_distInstrs row x.toNat
  refine ⟨_, rfl, format, selector.symm ▸ code, ?_⟩
  rw [selector, operands, hx.ofNat_toNat, List.append_nil]

theorem decodeLlSym_reads {ll d : List Nat} (soundLl : oversubscribed ll Config.maxBitsLD = false)
    (soundD : oversubscribed d Config.maxBitsLD = false) {c : Cursor} (h : c.Fine) :
    Reads (IsEncoding (.llSym ll d)) c (decodeLlSym ll d c) := by
  unfold decodeLlSym
  refine .andThen (huffDecode_spells soundLl h) trivial fun sym bs c' hs hc' _ => ?_
  cases sym with
  | none => exact .reject hc' trivial
  | some s =>
    obtain ⟨code, rfl⟩ := hs s rfl
    have literal (i : Instr) (format : i.format = .llSym) (hm : matchLengthOf i = none) (selector : i.selector = s) :
        Reads (fun is bs => IsEncoding (.llSym ll d) is (codeBits ll s ++ bs)) c' (.elem [i] c') :=
      .done hc' (by simp) ⟨⟨format, hm, selector.symm ▸ code⟩, by
        rw [encode_single, encodeInstr_literal format hm, selector, List.append_nil]⟩
    dsimp only
    split_ifs with hl he h6 h7
    · exact literal _ rfl (matchLengthOf_lit _) (Nat.mod_eq_of_lt (by omega))
    · exact literal .eob rfl (by decide) he.symm
    · exact literal .ll286 rfl (by decide) h6.symm
    · exact literal .ll287 rfl (by decide) h7.symm
    · split
      · exact .reject hc' trivial
      rename_i f hf
      refine .andThen (readBits_says (lengthExtra_le _) hc') trivial fun x bs c'' hx hc'' _ => ?_
      refine (decodeDSym_reads soundD [f x.toNat] hc'').mono ?_
      rintro is bs' ⟨j, rfl, formatD, codeD, rfl⟩
      obtain ⟨selector, operands⟩ := getElem?_lengthInstrs hf x.toNat
      obtain ⟨format, hm⟩ := format_lengthInstrs _ (List.mem_of_getElem? hf) x.toNat
      replace selector : (f x.toNat).selector = s := by omega
      refine ⟨⟨format, hm, selector.symm ▸ code, formatD, codeD⟩, ?_⟩
      rw [List.singleton_append, encode_pair, encodeInstr_llSym format, encodeInstr_distance formatD, selector,
        operands, hx.ofNat_toNat, List.append_assoc]

/-- What decoding reads is an element of the kind expected, and the bits read are its encoding. -/
theorem decode_reads {x : Expect} (sound : soundTables x) {c : Cursor} (h : (elementStart x c).Fine)
    (hb : byteElement x = true → c.bitpos = 8) : Reads (IsEncoding x) (elementStart x c) (decode x c) := by
  have uncoded (hx : plain x = true) (hn : x ≠ .dynCllens 0) : Reads (IsEncoding x) (elementStart x c) (decode x c) :=
    (decode_says x h hb hn).reads fun is bs ⟨shape, _, spelled⟩ => ⟨admits_of_shape hx shape, spelled hx⟩
  cases x with
  | clSym cl => exact decodeClSym_reads sound h
  | llSym ll d => exact decodeLlSym_reads sound.1 sound.2 h
  | dSym d =>
    refine (decodeDSym_reads sound [] h).mono ?_
    rintro is bs ⟨j, rfl, format, code, rfl⟩
    exact ⟨⟨format, code⟩, by rw [List.nil_append, encode_single, encodeInstr_dSym format]⟩
  | dynCllens n =>
    refine (decodeCllens_says n [] h).reads ?_
    rintro is bs ⟨cll, rfl, hn, rfl⟩
    exact ⟨hn, by simp [encode, encodeInstr, Instr.format, Instr.operandBits]⟩
  | _ => exact uncoded rfl (by simp)

/-- Where an element's bits begin is a position between steps (R205, R211, R307). -/
theorem fine_elementStart (x : Expect) {c : Cursor} (h : c.Fine) : (elementStart x c).Fine := by
  cases x with
  | storedLen | trailer => exact fine_of_aligned rfl
  | _ => exact h

/-- Settles O57: what is read is the encoding of what is answered. -/
theorem encodeSpellsWhatDecodeReads : Obligations.EncodeSpellsWhatDecodeReads := by
  intro x is c c' sound h1 h8 hb hd
  have reads := decode_reads sound (fine_elementStart x ⟨h1, h8⟩) hb
  rw [hd] at reads
  cases reads with
  | elem _ bs _ spelled follows => exact ⟨spelled.1, spelled.2 ▸ follows.bits⟩

/-! ### What is encoded is read -/

theorem shape_of_admits {x : Expect} {is : List Instr} (hx : plain x = true) (h : Admits x is) : Shape x is := by
  unfold Admits at h
  split at h
  -- The rows of `Admits` in their order: 8, 9 and 11 match on the instruction, 12 to 15 are coded, 17 admits nothing.
  case h_8 => exact ⟨_, _, rfl⟩
  case h_9 => exact ⟨_, rfl⟩
  case h_11 => exact ⟨_, rfl, h⟩
  case h_12 | h_13 | h_14 | h_15 => cases hx
  case h_17 => exact h.elim
  all_goals
    rename_i i
    cases i <;> simp only [Instr.format, reduceCtorEq] at h
    all_goals simp [Shape]

theorem admits_clSym {cl : List Nat} {is : List Instr} (h : Admits (.clSym cl) is) :
    ∃ i, is = [i] ∧ i.format = .clSym ∧ hasCode cl Config.maxBitsCL i.selector := by
  rcases is with _ | ⟨i, _ | ⟨j, is⟩⟩
  exacts [h.elim, ⟨i, rfl, h⟩, h.elim]

theorem admits_llSym {ll d : List Nat} {is : List Instr} (h : Admits (.llSym ll d) is) :
    (∃ i, is = [i] ∧ i.format = .llSym ∧ matchLengthOf i = none ∧ hasCode ll Config.maxBitsLD i.selector) ∨
      ∃ i j, is = [i, j] ∧ i.format = .llSym ∧ matchLengthOf i ≠ none ∧ hasCode ll Config.maxBitsLD i.selector ∧
        j.format = .dSym ∧ hasCode d Config.maxBitsLD j.selector := by
  rcases is with _ | ⟨i, _ | ⟨j, _ | ⟨k, is⟩⟩⟩
  exacts [h.elim, .inl ⟨i, rfl, h⟩, .inr ⟨i, j, rfl, h⟩, h.elim]

theorem admits_dSym {d : List Nat} {is : List Instr} (h : Admits (.dSym d) is) :
    ∃ j, is = [j] ∧ j.format = .dSym ∧ hasCode d Config.maxBitsLD j.selector := by
  rcases is with _ | ⟨j, _ | ⟨k, is⟩⟩
  exacts [h.elim, ⟨j, rfl, h⟩, h.elim]

/-- Decoding answers the instructions `is`, at a position between steps with the bits `rest` left. -/
def Yields (d : Decoded) (is : List Instr) (rest : List Bool) : Prop :=
  ∃ c', d = .elem is c' ∧ c'.bits = rest ∧ c'.Fine

theorem Yields.done {c : Cursor} (h : c.Fine) (is : List Instr) : Yields (.elem is c) is c.bits := ⟨c, rfl, rfl, h⟩

section
variable {α : Type} {r : Read α} {a : α} {k : Capture} {f : α → Cursor → Decoded} {c : Cursor} {bs left rest : List Bool}
  {is : List Instr}

/-- Decode on after a read that takes the next bits. -/
theorem Yields.andThen (hr : ∃ c', Takes r c bs a c') (hb : c.bits = bs ++ left)
    (hf : ∀ c', c'.Fine → c'.bits = left → Yields (f a c') is rest) : Yields (r.andThen k f) is rest := by
  obtain ⟨c', rfl, took⟩ := hr
  exact hf c' took.fine (List.append_cancel_left (took.bits.symm.trans hb))

/-- Decode on after a read of whole bytes, at a byte boundary again. -/
theorem Yields.andThenAligned (hr : ∃ c', Takes r c bs a c' ∧ c'.bitpos = 8) (hb : c.bits = bs ++ left)
    (hf : ∀ c', c'.bitpos = 8 → c'.bits = left → Yields (f a c') is rest) : Yields (r.andThen k f) is rest := by
  obtain ⟨c', ⟨rfl, took⟩, aligned⟩ := hr
  exact hf c' aligned (List.append_cancel_left (took.bits.symm.trans hb))

/-- Decode on after the extra bits of a symbol. -/
theorem Yields.andThenExtra {n v : Nat} {g : Nat → Cursor → Decoded} (hn : n ≤ 16) (hv : v < 2 ^ n) (h : c.Fine)
    (hb : c.bits = fieldBits (BitVec.ofNat n v) ++ left)
    (hf : ∀ c', c'.Fine → c'.bits = left → Yields (g v c') is rest) :
    Yields ((readBits n c).andThen k fun x c' => g x.toNat c') is rest :=
  .andThen (readBits_takes hn h hb) hb fun c' h' hb' => by
    rw [BitVec.toNat_ofNat, Nat.mod_eq_of_lt hv]
    exact hf c' h' hb'

end

variable {c : Cursor} {rest : List Bool}

theorem byte_yields (mk : Byte → Instr) {b : Byte} (h : c.bitpos = 8) (hb : c.bits = fieldBits b ++ rest) :
    Yields ((readByte c).andThen .nothing fun b c => .elem [mk b] c) [mk b] rest :=
  .andThenAligned (readByte_takes h hb) hb fun _ h' hb' => hb' ▸ .done (fine_of_aligned h') _

theorem word_yields (mk : BitVec 16 → Instr) {v : BitVec 16} (h : c.bitpos = 8) (hb : c.bits = fieldBits v ++ rest) :
    Yields ((readU16 c).andThen .nothing fun v c => .elem [mk v] c) [mk v] rest :=
  .andThenAligned (readU16_takes h hb) hb fun _ h' hb' => hb' ▸ .done (fine_of_aligned h') _

/-- The three bytes that select a fixed gzip header (R201). -/
theorem fieldBits_gzipMagic :
    fieldBits (BitVec.ofNat 24 0x088B1F) = fieldBits (0x1F : Byte) ++ fieldBits (0x8B : Byte) ++ fieldBits (8 : Byte) := by
  decide

theorem decodeGzFixed_yields {flg xfl os : Byte} {mtime : Word} (h : c.bitpos = 8)
    (hb : c.bits = encodeInstr .gzFixed (.gzFixed flg mtime xfl os) ++ rest) :
    Yields (decodeGzFixed c) [.gzFixed flg mtime xfl os] rest := by
  simp only [encodeInstr, Instr.format, Instr.selector, fieldBits_gzipMagic, Instr.operandBits,
    List.append_assoc] at hb
  unfold decodeGzFixed
  refine .andThenAligned (readByte_takes h hb) hb fun c1 h1 hb1 => ?_
  refine .andThenAligned (readByte_takes h1 hb1) hb1 fun c2 h2 hb2 => ?_
  rw [if_neg (by decide)]
  refine .andThenAligned (readByte_takes h2 hb2) hb2 fun c3 h3 hb3 => ?_
  rw [if_neg (by decide)]
  refine .andThenAligned (readByte_takes h3 hb3) hb3 fun c4 h4 hb4 => ?_
  refine .andThenAligned (readU32_takes h4 hb4) hb4 fun c5 h5 hb5 => ?_
  refine .andThenAligned (readByte_takes h5 hb5) hb5 fun c6 h6 hb6 => ?_
  exact .andThenAligned (readByte_takes h6 hb6) hb6 fun c7 h7 hb7 => hb7 ▸ .done (fine_of_aligned h7) _

theorem decodeStoredLen_yields {len nlen : BitVec 16}
    (hb : (alignToByte c).bits = fieldBits len ++ fieldBits nlen ++ rest) :
    Yields (decodeStoredLen c) [.storedLen len nlen] rest := by
  rw [List.append_assoc] at hb
  unfold decodeStoredLen
  refine .andThenAligned (readU16_takes rfl hb) hb fun c1 h1 hb1 => ?_
  exact .andThenAligned (readU16_takes h1 hb1) hb1 fun c2 h2 hb2 => hb2 ▸ .done (fine_of_aligned h2) _

theorem decodeTrailer_yields {crc isize : Word}
    (hb : (alignToByte c).bits = fieldBits crc ++ fieldBits isize ++ rest) :
    Yields (decodeTrailer c) [.gzTrailer crc isize] rest := by
  rw [List.append_assoc] at hb
  unfold decodeTrailer
  refine .andThenAligned (readU32_takes rfl hb) hb fun c1 h1 hb1 => ?_
  exact .andThenAligned (readU32_takes h1 hb1) hb1 fun c2 h2 hb2 => hb2 ▸ .done (fine_of_aligned h2) _

theorem decodeDynHdr_yields {hlit hdist : BitVec 5} {hclen : BitVec 4} (h : c.Fine)
    (hb : c.bits = fieldBits hlit ++ fieldBits hdist ++ fieldBits hclen ++ rest) :
    Yields (decodeDynHdr c) [.dynHdr hlit hdist hclen] rest := by
  rw [List.append_assoc, List.append_assoc] at hb
  unfold decodeDynHdr
  refine .andThen (readBits_takes (by omega) h hb) hb fun c1 h1 hb1 => ?_
  refine .andThen (readBits_takes (by omega) h1 hb1) hb1 fun c2 h2 hb2 => ?_
  exact .andThen (readBits_takes (by omega) h2 hb2) hb2 fun c3 h3 hb3 => hb3 ▸ .done h3 _

theorem decodeCllens_yields (got cll : List (BitVec 3)) (h : c.Fine) (hb : c.bits = cll.flatMap fieldBits ++ rest) :
    Yields (decodeCllens cll.length got c) [.dynCllens (got ++ cll)] rest := by
  induction cll generalizing got c with
  | nil =>
    rw [List.append_nil, ← show c.bits = rest from hb]
    exact .done h _
  | cons v cll ih =>
    rw [List.flatMap_cons, List.append_assoc] at hb
    refine .andThen (readBits_takes (by omega) h hb) hb fun c' h' hb' => ?_
    have whole : got ++ v :: cll = got ++ [v] ++ cll := List.append_cons ..
    exact whole ▸ ih (got ++ [v]) h' hb'

theorem exists_blockInstr {is : List Instr} (h : Shape .blkHdr is) : ∃ v, is = [blockInstr v] := by
  obtain ⟨f, h⟩ := h
  rcases h with rfl | rfl | rfl | rfl <;> cases f
  exacts [⟨0, rfl⟩, ⟨1, rfl⟩, ⟨2, rfl⟩, ⟨3, rfl⟩, ⟨4, rfl⟩, ⟨5, rfl⟩, ⟨6, rfl⟩, ⟨7, rfl⟩]

theorem decodeBlkHdr_yields (v : BitVec 3) (h : c.Fine) (hb : c.bits = fieldBits v ++ rest) :
    Yields (decode .blkHdr c) [blockInstr v] rest :=
  .andThen (readBits_takes (by omega) h hb) hb fun _ h' hb' => hb' ▸ .done h' _

theorem decodeClSym_yields {cl : List Nat} {i : Instr} (format : i.format = .clSym)
    (code : hasCode cl Config.maxBitsCL i.selector) (h : c.Fine)
    (hb : c.bits = codeBits cl i.selector ++ i.operandBits ++ rest) : Yields (decodeClSym cl c) [i] rest := by
  rw [List.append_assoc] at hb
  obtain ⟨f, v, row, hv, e⟩ := exists_clInstr format
  unfold decodeClSym
  refine .andThen (huffDecode_takes code h hb) hb fun c' h' hb' => ?_
  rw [← e, (getElem?_clInstrs row v).2.2] at hb'
  simp only [Option.bind_some, row, Option.map_some]
  refine .andThenExtra (g := fun x c => .elem [f x] c) (clExtra_le _) hv h' hb' fun c'' h'' hb'' => ?_
  rw [e, ← hb'']
  exact .done h'' _

theorem decodeDSym_yields {d : List Nat} {j : Instr} (before : List Instr) (format : j.format = .dSym)
    (code : hasCode d Config.maxBitsLD j.selector) (h : c.Fine)
    (hb : c.bits = codeBits d j.selector ++ j.operandBits ++ rest) :
    Yields (decodeDSym before d c) (before ++ [j]) rest := by
  rw [List.append_assoc] at hb
  obtain ⟨f, v, row, hv, e⟩ := exists_distInstr format
  unfold decodeDSym
  refine .andThen (huffDecode_takes code h hb) hb fun c' h' hb' => ?_
  rw [← e, (getElem?_distInstrs row v).2.2] at hb'
  simp only [Option.bind_some, row, Option.map_some]
  refine .andThenExtra (g := fun x c => .elem (before ++ [f x]) c) (distExtra_le _) hv h' hb' fun c'' h'' hb'' => ?_
  rw [e, ← hb'']
  exact .done h'' _

theorem decodeLlSym_yields_literal {ll : List Nat} (d : List Nat) {i : Instr} (format : i.format = .llSym)
    (hm : matchLengthOf i = none) (code : hasCode ll Config.maxBitsLD i.selector) (h : c.Fine)
    (hb : c.bits = codeBits ll i.selector ++ rest) : Yields (decodeLlSym ll d c) [i] rest := by
  unfold decodeLlSym
  refine .andThen (huffDecode_takes code h hb) hb fun c' h' hb' => ?_
  subst hb'
  rcases literal_cases format hm with ⟨b, rfl⟩ | rfl | rfl | rfl
  · have byte : (Instr.lit b).selector ≤ 255 := Nat.le_of_lt_succ b.isLt
    have same : BitVec.ofNat 8 (Instr.lit b).selector = b := by simp [Instr.selector]
    dsimp only
    rw [if_pos byte, same]
    exact .done h' _
  · exact .done h' [.eob]
  · exact .done h' [.ll286]
  · exact .done h' [.ll287]

theorem decodeLlSym_yields_pair {ll d : List Nat} {i j : Instr} (format : i.format = .llSym)
    (hm : matchLengthOf i ≠ none) (code : hasCode ll Config.maxBitsLD i.selector) (formatD : j.format = .dSym)
    (codeD : hasCode d Config.maxBitsLD j.selector) (h : c.Fine)
    (hb : c.bits = codeBits ll i.selector ++ i.operandBits ++ (codeBits d j.selector ++ j.operandBits ++ rest)) :
    Yields (decodeLlSym ll d c) [i, j] rest := by
  rw [List.append_assoc] at hb
  obtain ⟨k, f, v, selector, row, hv, e⟩ := exists_lengthInstr format hm
  have hk : k < 29 := (List.getElem?_eq_some_iff.mp row).1
  unfold decodeLlSym
  refine .andThen (huffDecode_takes code h hb) hb fun c' h' hb' => ?_
  dsimp only
  rw [selector, if_neg (by omega), if_neg (by omega), if_neg (by omega), if_neg (by omega), Nat.add_sub_cancel, row]
  rw [← e, (getElem?_lengthInstrs row v).2] at hb'
  refine .andThenExtra (g := fun x c => decodeDSym [f x] d c) (lengthExtra_le _) hv h' hb' fun c'' h'' hb'' => ?_
  rw [e]
  exact decodeDSym_yields [i] formatD codeD h'' hb''

/-- Where an admitted element's encoding comes next, decoding answers the element. -/
theorem decode_yields {x : Expect} {is : List Instr} (h : Admits x is) (fine : c.Fine)
    (aligned : byteElement x = true → c.bitpos = 8) (hb : (elementStart x c).bits = encode x is ++ rest) :
    Yields (decode x c) is rest := by
  have shape (hx : plain x = true) : Shape x is := shape_of_admits hx h
  have bits {i : Instr} (e : is = [i]) : (elementStart x c).bits = encodeInstr x i ++ rest := by
    rw [hb, e, encode_single]
  cases x with
  | gzFixed => obtain ⟨flg, mtime, xfl, os, rfl⟩ := shape rfl; exact decodeGzFixed_yields (aligned rfl) (bits rfl)
  | gzXlen => obtain ⟨v, rfl⟩ := shape rfl; exact word_yields .gzXlen (aligned rfl) (bits rfl)
  | gzExtra => obtain ⟨b, rfl⟩ := shape rfl; exact byte_yields .gzExtra (aligned rfl) (bits rfl)
  | gzName => obtain ⟨b, rfl⟩ := shape rfl; exact byte_yields .gzName (aligned rfl) (bits rfl)
  | gzComment => obtain ⟨b, rfl⟩ := shape rfl; exact byte_yields .gzComment (aligned rfl) (bits rfl)
  | gzHcrc => obtain ⟨v, rfl⟩ := shape rfl; exact word_yields .gzHcrc (aligned rfl) (bits rfl)
  | blkHdr =>
    obtain ⟨v, rfl⟩ := exists_blockInstr (shape rfl)
    exact decodeBlkHdr_yields v fine (encode_blockInstr v ▸ hb)
  | storedLen => obtain ⟨len, nlen, rfl⟩ := shape rfl; exact decodeStoredLen_yields (bits rfl)
  | storedCopy => obtain ⟨b, rfl⟩ := shape rfl; exact byte_yields .storedCopy (aligned rfl) (bits rfl)
  | dynHdr => obtain ⟨hlit, hdist, hclen, rfl⟩ := shape rfl; exact decodeDynHdr_yields fine (bits rfl)
  | dynCllens n => obtain ⟨cll, rfl, rfl⟩ := shape rfl; exact decodeCllens_yields [] cll fine (bits rfl)
  | clSym cl =>
    obtain ⟨i, rfl, format, code⟩ := admits_clSym h
    exact decodeClSym_yields format code fine (encodeInstr_clSym format cl ▸ bits rfl)
  | llSym ll d =>
    obtain ⟨i, rfl, format, hm, code⟩ | ⟨i, j, rfl, format, hm, code, formatD, codeD⟩ := admits_llSym h
    · exact decodeLlSym_yields_literal d format hm code fine (encodeInstr_literal format hm ll d ▸ bits rfl)
    · rw [encode_pair, encodeInstr_llSym format, encodeInstr_distance formatD, List.append_assoc] at hb
      have answer := decodeLlSym_yields_pair format hm code formatD codeD fine hb
      exact answer
  | dSym d =>
    obtain ⟨j, rfl, format, code⟩ := admits_dSym h
    exact decodeDSym_yields [] format code fine (encodeInstr_dSym format d ▸ bits rfl)
  | trailer => obtain ⟨crc, isize, rfl⟩ := shape rfl; exact decodeTrailer_yields (bits rfl)

/-- Settles O56: one lemma a format. -/
theorem decodeInvertsEncode : Obligations.DecodeInvertsEncode :=
  fun _ _ _ _ admitted h1 h8 aligned hb => decode_yields admitted ⟨h1, h8⟩ aligned hb

end Sys2Proof
end

section
/-! PROOFS. The host's transfers carry its commands (30_encoding.md R242, 20_memory.md R154, R157), and words written out
from the spec. -/

namespace Sys2Proof.Machine

theorem decodeOffset_aligned {off : BitVec 6} (h : alignedOffset off = true) (i : Instr) :
    decodeOffset off i = .command i := if_pos h

/-- A well-formed RegWrite has no command bit of CTRL set, so it is written as its own row (R242). -/
theorem regWriteInstr_of_wf {off : BitVec 6} {v : Word} (h : (Instr.regWrite off v).wf = true) :
    regWriteInstr off v = .regWrite off v := by
  obtain ⟨-, noCommand⟩ := Bool.and_eq_true_iff.mp h
  have bits : off = 0 → v.getLsbD 0 = false ∧ v.getLsbD 1 = false := by
    rintro rfl
    simpa using noCommand
  have noReset : ¬ (off = 0 ∧ v.getLsbD 1 = true) := fun ⟨h0, set⟩ => by simp only [bits h0, reduceCtorEq] at set
  have noStart : ¬ (off = 0 ∧ v.getLsbD 0 = true) := fun ⟨h0, set⟩ => by simp only [bits h0, reduceCtorEq] at set
  rw [regWriteInstr, if_neg noReset, if_neg noStart]

/-- A well-formed command is what its transfer decodes to (R242, R652). -/
theorem decodeHost_encodeHost {i : Instr} (hw : i.wf = true) (hf : i.format = .host) :
    ∃ g, encodeHost i = some g ∧ decodeHost g = .command i := by
  cases i with
  | start v =>
    obtain ⟨start, noReset⟩ : v.getLsbD 0 = true ∧ v.getLsbD 1 = false := by simpa [Instr.wf] using hw
    refine ⟨_, rfl, (decodeOffset_aligned (by decide) _).trans ?_⟩
    rw [regWriteInstr, if_neg (by simp only [noReset, reduceCtorEq, and_false, not_false_eq_true]), if_pos ⟨rfl, start⟩]
  | softReset v =>
    refine ⟨_, rfl, (decodeOffset_aligned (by decide) _).trans ?_⟩
    rw [regWriteInstr, if_pos ⟨rfl, hw⟩]
  | regWrite off v =>
    refine ⟨_, rfl, (decodeOffset_aligned (Bool.and_eq_true_iff.mp hw).1 _).trans ?_⟩
    rw [regWriteInstr_of_wf hw]
  | regRead off => exact ⟨_, rfl, decodeOffset_aligned hw _⟩
  | pushByte | endInput | outAccept | hardReset => exact ⟨_, rfl, rfl⟩
  | _ => simp [Instr.format] at hf

theorem toNat_laneWord_cons (b : Byte) (l : List Byte) :
    (laneWord (b :: l)).toNat = (256 * (laneWord l).toNat + b.toNat) % 2 ^ 32 := by
  rw [laneWord, BitVec.toNat_or, BitVec.toNat_shiftLeft, BitVec.toNat_setWidth, ← Nat.or_mod_two_pow,
    ← Nat.shiftLeft_add_eq_or_of_lt b.isLt, Nat.shiftLeft_eq, Nat.mul_comm]

/-- Byte `k` of a bus write is bits 8k+7 to 8k of the word written (R154). -/
theorem laneWord_eq_leU32 (b0 b1 b2 b3 : Byte) : laneWord [b0, b1, b2, b3] = leU32 b0 b1 b2 b3 := by
  refine BitVec.eq_of_toNat_eq ?_
  simp only [toNat_laneWord_cons, leU32, BitVec.toNat_ofNat, show (laneWord []).toNat = 0 from rfl]
  omega

theorem decodeHost_memWrite (addr : Nat) (data : List Byte) : decodeHost (.memWrite addr data) =
    decodeAccess Config.regBase addr data.length fun off => regWriteInstr off (laneWord data) := rfl

theorem decodeHost_memRead_eq (addr n : Nat) :
    decodeHost (.memRead addr n) = decodeAccess Config.regBase addr n .regRead := rfl

/-- A bus access in the register block (R154, R157). -/
theorem decodeAccess_inside {base addr n : Nat} (f : BitVec 6 → Instr) (inside : base ≤ addr ∧ addr < base + 64) :
    decodeAccess base addr n f =
      if n = 4 ∧ (addr - base) % 4 = 0 then .command (f (BitVec.ofNat 6 (addr - base))) else .badAccess :=
  if_neg fun outside => outside.elim (Nat.not_lt.mpr inside.1) (Nat.not_le.mpr inside.2)

theorem decodeAccess_outside {base addr : Nat} (n : Nat) (f : BitVec 6 → Instr)
    (outside : addr < base ∨ base + 64 ≤ addr) : decodeAccess base addr n f = .elsewhere := if_pos outside

/-- A bus access of 4 bytes at a register (R154, R157). -/
theorem decodeAccess_register (base : Nat) {off : BitVec 6} (h : off.toNat % 4 = 0) (f : BitVec 6 → Instr) :
    decodeAccess base (base + off.toNat) 4 f = .command (f off) := by
  rw [decodeAccess_inside f ⟨Nat.le_add_right _ _, Nat.add_lt_add_left off.isLt base⟩, Nat.add_sub_cancel_left,
    if_pos ⟨rfl, h⟩, BitVec.ofNat_toNat, BitVec.setWidth_eq]

/-- Settles O48: the transfers by their kind, the bus accesses by address and width. -/
theorem hostTransfersDecodeAsEncoded : Obligations.HostTransfersDecodeAsEncoded := by
  refine ⟨fun i => decodeHost_encodeHost, fun off b0 b1 b2 b3 h => ?_, fun addr n data hn lo hi bad => ?_,
    fun addr n data outside => ?_, fun g i h => ⟨decodeHost_wf h, decodeHost_format h⟩⟩
  · have aligned : alignedOffset off = true := beq_iff_eq.mpr h
    refine ⟨?_, (decodeHost_memRead h).trans (decodeOffset_aligned aligned _).symm⟩
    rw [decodeHost_memWrite, laneWord_eq_leU32]
    exact (decodeAccess_register _ h fun off => regWriteInstr off _).trans (decodeOffset_aligned aligned _).symm
  · subst hn
    have noRegister : ¬ (data.length = 4 ∧ (addr - Config.regBase) % 4 = 0) := fun ⟨four, aligned⟩ =>
      bad.elim (· four) (· aligned)
    rw [decodeHost_memWrite, decodeHost_memRead_eq, decodeAccess_inside _ ⟨lo, hi⟩, decodeAccess_inside _ ⟨lo, hi⟩,
      if_neg noRegister, if_neg noRegister]
    exact ⟨rfl, rfl⟩
  · rw [decodeHost_memWrite, decodeHost_memRead_eq, decodeAccess_outside _ _ outside, decodeAccess_outside _ _ outside]
    exact ⟨rfl, rfl⟩

/-- Settles O30: the decoders run on each word. -/
theorem writtenOutWordsDecodeToTheirElements : Obligations.WrittenOutWordsDecodeToTheirElements := by
  unfold Obligations.WrittenOutWordsDecodeToTheirElements
  decide +kernel

end Sys2Proof.Machine
end

section
/-! PROOFS. ReadBits at any position between steps (40_bit_unpacker.md R303, 20_memory.md R150, R151). -/

namespace Sys2Proof

/-- ReadBits (R303, R151) of as many bits as `bs` holds, where `bs` comes next. -/
theorem readBits_append {c : Cursor} {bs rest : List Bool} (hc : c.Fine) (hn : bs.length ≤ 16) (hl : c.bits = bs ++ rest) :
    ∃ c', readBits bs.length c = .ok (BitVec.ofNat bs.length (bitsValue bs)) c' ∧ c'.bits = rest := by
  have field := fieldBits_ofNat_bitsValue bs
  obtain ⟨c', read, taken⟩ := readBits_takes hn (v := BitVec.ofNat bs.length (bitsValue bs)) hc (by rw [field, hl])
  refine ⟨c', read, ?_⟩
  have left := taken.bits
  rw [field, hl] at left
  exact (List.append_cancel_left left).symm

/-- Settles O38: the bits that come next are the field of their value; a read that runs out ends where no bit is left. -/
theorem readBitsTakesTheNextBits : Obligations.ReadBitsTakesTheNextBits := by
  intro n c hn h1 h8
  have fine : c.Fine := ⟨h1, h8⟩
  constructor
  · rintro bs rest rfl hl
    exact readBits_append fine hn hl
  · intro few
    obtain ⟨c', read, -, dry⟩ := readBits_short hn fine few
    exact ⟨c', read, Cursor.bits_of_dry dry⟩

end Sys2Proof
end

section
/-! PROOFS. Block headers and stored blocks (41_block_dispatch.md R350 to R357): the end of a block, the meanings of the
block's instructions, and step BLK_HDR from the bits of the stream. -/

namespace Sys2Proof.Machine

/-! ### The end of a block -/

theorem endOfBlock_raw {s : State} (hf : s.bfinal = true) (hm : s.modeRaw = true) :
    endOfBlock s = { s with bitpos := 8, phase := .done } := by
  simp [endOfBlock, endPhase, hf, hm]

theorem endOfBlock_gzip {s : State} (hf : s.bfinal = true) (hm : s.modeRaw = false) :
    endOfBlock s = { s with phase := .trailer } := by
  simp [endOfBlock, endPhase, hf, hm]

theorem endOfBlock_notFinal {s : State} (hf : s.bfinal = false) : endOfBlock s = { s with phase := .blkHdr } := by
  simp [endOfBlock, endPhase, hf]

/-- Settles O3: one case a branch of R357. -/
theorem endOfBlockSelectsThePhase : Obligations.EndOfBlockSelectsThePhase :=
  fun _ => ⟨endOfBlock_raw, endOfBlock_gzip, endOfBlock_notFinal⟩

/-! ### The instructions -/

/-- Settles O10: each block type's arm records the header and selects what follows. -/
theorem blockTypesSelectWhatFollows : Obligations.BlockTypesSelectWhatFollows :=
  fun _ _ => ⟨rfl, rfl, rfl, rfl⟩

/-- Settles O11: the check of R355 is symmetric in LEN and NLEN. -/
theorem storedLengthIsCheckedAgainstItsComplement : Obligations.StoredLengthIsCheckedAgainstItsComplement := by
  intro len nlen s
  have run : exec (.storedLen len nlen) s = execStoredLen len nlen s := rfl
  have symmetric : nlen = ~~~len ↔ len = ~~~nlen := eq_comm.trans BitVec.not_eq_comm
  rw [run, execStoredLen, ne_eq nlen, symmetric]
  refine ⟨fun complement owed => ?_, fun complement empty => ?_, fun mismatch => ?_⟩
  · rw [if_neg (not_not_intro complement), if_neg owed]
  · rw [if_neg (not_not_intro complement), if_pos empty]
  · rw [if_pos mismatch, raiseCorrupt]

theorem countStored_of_last {s : State} (h : s.storedRem = 1) :
    countStored s = endOfBlock { s with storedRem := 0 } := by
  simp [countStored, h]

theorem countStored_of_more {s : State} (h : s.storedRem ≠ 1) :
    countStored s = { s with storedRem := s.storedRem - 1 } := by
  have more : s.storedRem - 1 ≠ 0 := fun e => h (sub_eq_zero.mp e)
  rw [countStored, if_neg more]

/-- The step STORED_COPY (R356) is its count and then the Emit, or nothing while no byte is taken (R662). -/
theorem exec_storedCopy (b : Byte) (s : State) :
    exec (.storedCopy b) s = if s.outReady then .next (emit b (countStored s)) else .next s := by
  rw [← countStored_outReady s]; rfl

/-- Settles O12: the count of R356, with the last byte's case apart. -/
theorem storedByteIsDelivered : Obligations.StoredByteIsDelivered := by
  intro b s
  rw [exec_storedCopy]
  refine ⟨fun ready more => ?_, fun ready last => ?_, fun held => ?_⟩
  · rw [if_pos ready, countStored_of_more more]
  · rw [if_pos ready, countStored_of_last last]
  · rw [if_neg (by simp [held])]

/-! ### Step BLK_HDR -/

/-- The block header that three bits spell: BFINAL, then BTYPE with the low bit first (R204, R350). -/
theorem blockInstr_of_bits (f t0 t1 : Bool) :
    blockInstr (BitVec.ofNat 3 (bitsValue [f, t0, t1])) =
      match t1, t0 with
      | false, false => .blkStored f
      | false, true => .blkFixed f
      | true, false => .blkDynamic f
      | true, true => .blkReserved f := by
  revert f t0 t1; decide

theorem emits_blockInstr (v : BitVec 3) : emits (blockInstr v) = false := by
  revert v; decide

section
variable {s : State} (hv : LegalValues s) (ha : s.agenda = []) (hp : s.phase = .blkHdr)
include hv ha hp

/-- Three bits are there: they are taken, and the step is the meaning of the header they spell (R350). -/
theorem step_blkHdr_of_bits {v : BitVec 3} {rest : List Bool} (hb : (cursorOf s).bits = fieldBits v ++ rest) :
    ∃ u, Took (fieldBits v) s u ∧ step s = exec (blockInstr v) u := by
  have hx : expected s = some .blkHdr := by simp [expected, hp]
  obtain ⟨c, read, taken⟩ := readBits_takes (n := 3) (by decide) (cursorOf_fine hv) hb
  have got : fetch .blkHdr s = .got [blockInstr v] (advanceTo c s) := by simp only [fetch, decode, read, Read.andThen]
  refine ⟨advanceTo c s, by simpa using took_advance (x := .blkHdr) hv.placed taken, ?_⟩
  simp only [step, ha]
  rw [engineStep_of_got hx got (by simp [emits_blockInstr]), execAll_one]

/-- Fewer than three bits are there: the step holds, and after the end of input it raises with them taken (R300). -/
theorem step_blkHdr_of_short (hb : (cursorOf s).bits.length < 3) :
    (s.inEnd = false → step s = .next s) ∧
      (s.inEnd = true → ∃ u, Took (cursorOf s).bits s u ∧ step s = .next (raise .unexpectedEndOfInput u)) := by
  have hx : expected s = some .blkHdr := by simp [expected, hp]
  obtain ⟨c, read, taken, -⟩ := readBits_short (n := 3) (by decide) (cursorOf_fine hv) hb
  have short : decode .blkHdr (cursorOf s) = .short .nothing c := by simp only [decode, read, Read.andThen]
  simp only [step, ha]
  exact ⟨fun he => (held_of_short hx short he).2, fun he =>
    ⟨advanceTo c s, by simpa using took_advance (x := .blkHdr) hv.placed taken, (raised_of_short hx short he).2⟩⟩

end

/-- Settles O39: the three bits name one of the four headers, whose meanings are those of O10. -/
theorem blockHeaderStepReadsThreeBits : Obligations.BlockHeaderStepReadsThreeBits := by
  refine fun s hv ha hp => ⟨fun f t0 t1 rest hb => ?_, step_blkHdr_of_short hv ha hp⟩
  have field := fieldBits_ofNat_bitsValue [f, t0, t1]
  obtain ⟨u, took, run⟩ := step_blkHdr_of_bits hv ha hp (v := BitVec.ofNat 3 (bitsValue [f, t0, t1])) (rest := rest)
    (hb.trans (congrArg (· ++ rest) field.symm))
  rw [blockInstr_of_bits] at run
  obtain ⟨stored, fixed, dynamic, reserved⟩ := blockTypesSelectWhatFollows f u
  refine ⟨u, field ▸ took, ?_, ?_, ?_, ?_⟩ <;> rintro rfl rfl
  · exact run.trans stored
  · exact run.trans fixed
  · exact run.trans dynamic
  · exact run.trans reserved

end Sys2Proof.Machine
end

section
/-! PROOFS. What Decode answers (42_huffman.md R400 to R404): exactly the codes, which tables are over-subscribed, and
which bits are no code. -/

namespace Sys2Proof

/-! ### Decode answers exactly the codes -/

theorem huffDecode_some_spells {lens : List Nat} {maxbits s : Nat} (sound : oversubscribed lens maxbits = false)
    {c c' : Cursor} (h : c.Fine) (answer : huffDecode (buildTable lens maxbits) c = .ok (some s) c') :
    hasCode lens maxbits s ∧ c.bits = codeBits lens s ++ c'.bits := by
  have spelled := huffDecode_spells sound h
  rw [answer] at spelled
  cases spelled with
  | ok _ bs _ spelled follows =>
    obtain ⟨code, rfl⟩ := spelled s rfl
    exact ⟨code, follows.bits⟩

/-- Settles O47: what Decode answers is spelled by the bits it took, and a code that comes next is answered. -/
theorem decodeAnswersExactlyTheCodes : Obligations.DecodeAnswersExactlyTheCodes := by
  refine ⟨fun lens l => firstCode_succ lens l, fun _ _ => rfl, fun lens maxbits s c sound h1 h8 => ?_⟩
  have fine : c.Fine := ⟨h1, h8⟩
  refine ⟨⟨?_, ?_⟩, fun c' answer => (huffDecode_some_spells sound fine answer).2⟩
  · rintro ⟨c', answer⟩
    obtain ⟨code, bits⟩ := huffDecode_some_spells sound fine answer
    exact ⟨code, c'.bits, bits.symm⟩
  · rintro ⟨code, rest, bits⟩
    obtain ⟨c', answer, -⟩ := huffDecode_takes code fine bits.symm
    exact ⟨c', answer⟩

/-! ### The share of the patterns that the codes take -/

/-- One bit more doubles the patterns that a shorter code takes, and a code of the new length takes one (R403). -/
theorem patterns_of_length_succ (l m : Nat) :
    (if 0 < l ∧ l ≤ m + 1 then 2 ^ (m + 1 - l) else 0) =
      2 * (if 0 < l ∧ l ≤ m then 2 ^ (m - l) else 0) + if l = m + 1 then 1 else 0 := by
  rcases Nat.lt_trichotomy l (m + 1) with short | rfl | long
  · have double : 2 ^ (m + 1 - l) = 2 * 2 ^ (m - l) := by
      rw [Nat.succ_sub (Nat.le_of_lt_succ short), Nat.pow_succ, Nat.mul_comm]
    have both : l ≤ m + 1 ∧ l ≤ m ∧ l ≠ m + 1 := by omega
    simp [both, double]
  · simp
  · rw [if_neg (by omega), if_neg (by omega), if_neg long.ne']

theorem patternsTaken_cons (l : Nat) (lens : List Nat) (m : Nat) :
    patternsTaken (l :: lens) m = (if 0 < l ∧ l ≤ m then 2 ^ (m - l) else 0) + patternsTaken lens m := rfl

theorem patternsTaken_succ (lens : List Nat) (m : Nat) :
    patternsTaken lens (m + 1) = 2 * patternsTaken lens m + lens.count (m + 1) := by
  induction lens with
  | nil => rfl
  | cons l lens ih =>
    rw [patternsTaken_cons, patternsTaken_cons, patterns_of_length_succ, ih, List.count_cons]
    simp only [beq_iff_eq]
    omega

/-- R403: the codes take the patterns below the codes' end. -/
theorem patternsTaken_eq_codesEnd (lens : List Nat) (m : Nat) : patternsTaken lens m = codesEnd lens m := by
  induction m with
  | zero =>
    have none_taken (l : Nat) : (if 0 < l ∧ l ≤ 0 then 2 ^ (0 - l) else 0) = 0 := if_neg (by omega)
    simp only [patternsTaken, none_taken]
    simp [codesEnd, firstCode]
  | succ m ih => rw [patternsTaken_succ, ih, codesEnd_succ]

theorem codesEnd_mul_le (lens : List Nat) (l k : Nat) : codesEnd lens l * 2 ^ k ≤ codesEnd lens (l + k) := by
  cases k with
  | zero => simp
  | succ k => exact (codesEnd_mul_le_firstCode lens l k).trans (Nat.le_add_right _ _)

/-- The running count of R401 falls below 0 only where the codes need more than all the patterns. -/
theorem lt_codesEnd_of_oversubLoop {lens : List Nat} {left l k : Nat} (free : left + codesEnd lens l = 2 ^ l)
    (h : oversubLoop left ((List.range' (l + 1) k).map fun l => lens.count l) = true) :
    2 ^ (l + k) < codesEnd lens (l + k) := by
  induction k generalizing left l with
  | zero => simp [oversubLoop] at h
  | succ k ih =>
    have next := codesEnd_succ lens l
    rw [List.range'_succ, List.map_cons, oversubLoop] at h
    rw [← Nat.succ_add_eq_add_succ]
    split_ifs at h with more
    · have passed : 2 ^ (l + 1) < codesEnd lens (l + 1) := by rw [Nat.pow_succ]; omega
      calc 2 ^ (l + 1 + k) = 2 ^ (l + 1) * 2 ^ k := Nat.pow_add ..
        _ < codesEnd lens (l + 1) * 2 ^ k := Nat.mul_lt_mul_of_pos_right passed (Nat.two_pow_pos k)
        _ ≤ codesEnd lens (l + 1 + k) := codesEnd_mul_le lens (l + 1) k
    · exact ih (by rw [next, Nat.pow_succ]; omega) h

/-- Settles O45: the patterns taken are those below the codes' end, which the running count measures. -/
theorem oversubscribedMeansTooManyPatterns : Obligations.OversubscribedMeansTooManyPatterns := by
  intro lens maxbits
  rw [patternsTaken_eq_codesEnd]
  constructor
  · intro verdict
    simpa using lt_codesEnd_of_oversubLoop (l := 0) (left := 1) rfl verdict
  · intro tooMany
    by_contra sound
    exact (codesEnd_le (Bool.eq_false_of_not_eq_true sound) le_rfl).not_gt tooMany

/-! ### Bits that are no code -/

@[simp] theorem length_msbBits (l v : Nat) : (msbBits l v).length = l := by
  induction l with
  | zero => rfl
  | succ l ih => rw [msbBits, List.length_cons, ih]

/-- A code has as many bits as its symbol's length says (R402). -/
@[simp] theorem length_codeBits (lens : List Nat) (s : Nat) : (codeBits lens s).length = lens.getD s 0 :=
  length_msbBits ..

/-- Decode reports no code only after all `maxbits` bits, whose value is then past every code. -/
theorem huffFrom_none_says {lens : List Nat} {l k v : Nat} (hv : codesEnd lens l ≤ v) (fits : v < 2 ^ l) {c : Cursor}
    (h : c.Fine) :
    Says false (fun o bs => o = none → bs.length = k ∧ codesEnd lens (l + k) < 2 ^ (l + k)) c
      (huffFrom lens (l + k) l v c) := by
  induction k generalizing l v c with
  | zero => rw [Nat.add_zero, huffFrom_end]; exact .done h (by simp) fun _ => ⟨rfl, hv.trans_lt fits⟩
  | succ k ih =>
    rw [huffFrom_step (by omega) hv]
    refine (readBit_says h).bind fun b bs c' hb hc' _ => ?_
    subst hb
    split_ifs with below
    · refine .done hc' (by simp) fun hn => ?_
      have past := List.getElem?_eq_none_iff.mp hn
      rw [length_symbolsOfLength] at past
      have := firstCode_succ lens l
      have := codesEnd_succ lens l
      omega
    · have longer : 2 * v + b.toNat < 2 ^ (l + 1) := by
        have := b.toNat_lt
        rw [Nat.pow_succ]; omega
      rw [← Nat.succ_add_eq_add_succ l k]
      refine (ih (by omega) longer hc').mono fun o bs ends hn => ?_
      obtain ⟨length, incomplete⟩ := ends hn
      exact ⟨congrArg (· + 1) length, incomplete⟩

/-- R403, R404: bits are no code after exactly `maxbits` of them, and only of an incomplete table. -/
theorem huffDecode_none_says (lens : List Nat) (maxbits : Nat) {c : Cursor} (h : c.Fine) :
    Says false (fun o bs => o = none → bs.length = maxbits ∧ patternsTaken lens maxbits < 2 ^ maxbits) c
      (huffDecode (buildTable lens maxbits) c) := by
  have spelled := huffFrom_none_says (lens := lens) (l := 0) (k := maxbits) (v := 0) le_rfl Nat.one_pos h
  rwa [Nat.zero_add, ← huffDecode_eq_huffFrom, ← patternsTaken_eq_codesEnd] at spelled

/-- Decode answers where as many bits are left as there are code lengths. -/
theorem huffLoop_answers (syms : List Nat) {counts : List Nat} (code first index : Nat) {c : Cursor} (h : c.Fine)
    (enough : counts.length ≤ c.bits.length) : ∃ o c', huffLoop syms counts code first index c = .ok o c' := by
  induction counts generalizing code first index c with
  | nil => exact ⟨_, _, rfl⟩
  | cons n counts ih =>
    obtain ⟨b, left, bits⟩ := List.exists_cons_of_length_pos (Nat.zero_lt_of_lt enough)
    obtain ⟨c', read, took⟩ := readBit_takes h bits
    have fewer : counts.length ≤ c'.bits.length := by
      have := congrArg List.length took.bits
      simp only [List.length_append, List.length_cons, List.length_nil] at this enough
      omega
    simp only [huffLoop, read, Read.bind]
    split_ifs
    · exact ⟨_, _, rfl⟩
    · exact ih _ _ _ took.fine fewer

/-- R404: where no code begins the next `maxbits` bits, Decode takes them and reports that they are no code. -/
theorem huffDecode_rejects {lens : List Nat} {maxbits : Nat} (sound : oversubscribed lens maxbits = false) {c : Cursor}
    {bs rest : List Bool} (h : c.Fine) (hb : c.bits = bs ++ rest) (length : bs.length = maxbits)
    (noCode : ∀ s, hasCode lens maxbits s → ¬ codeBits lens s <+: bs) :
    ∃ c', Takes (huffDecode (buildTable lens maxbits) c) c bs none c' := by
  obtain ⟨o, c', answer⟩ : ∃ o c', huffDecode (buildTable lens maxbits) c = .ok o c' :=
    huffLoop_answers _ 0 0 0 h (by simp [buildTable, hb, length])
  cases o with
  | some s =>
    obtain ⟨code, spelled⟩ := huffDecode_some_spells sound h answer
    have short : (codeBits lens s).length ≤ bs.length := by
      rw [length, length_codeBits]; exact code.2.1
    have both : codeBits lens s <+: bs ++ rest := ⟨c'.bits, spelled.symm.trans hb⟩
    exact absurd (List.prefix_of_prefix_length_le both (List.prefix_append bs rest) short) (noCode s code)
  | none =>
    have spelled := huffDecode_none_says lens maxbits h
    rw [answer] at spelled
    cases spelled with
    | ok _ bs' _ ends follows =>
      obtain ⟨rfl, -⟩ := List.append_inj (hb.symm.trans follows.bits) (length.trans (ends rfl).1.symm)
      exact ⟨c', answer, follows⟩

end Sys2Proof
end

section
/-! PROOFS. The codes of the fixed tables (42_huffman.md R410, R411): each row of the rules is a run of symbols of one
length, and a run has consecutive codes. -/

namespace Sys2Proof

/-- The symbols of a run of one length `l` have consecutive codes (R402), after those of the symbols before it. -/
theorem codeBits_of_run {lens pre post : List Nat} {l n k : Nat} (table : lens = pre ++ (List.replicate n l ++ post))
    (hk : k < n) : codeBits lens (pre.length + k) = msbBits l (firstCode lens l + pre.count l + k) := by
  have length : lens.getD (pre.length + k) 0 = l := by
    rw [table, List.getD_append_right _ _ _ _ (Nat.le_add_right ..), Nat.add_sub_cancel_left,
      List.getD_append _ _ _ _ (by simpa using hk), List.getD_replicate _ hk]
  have before : lens.take (pre.length + k) = pre ++ List.replicate k l := by
    simp [table, List.take_append, hk.le]
  rw [codeBits, codeOf, length, before, List.count_append, List.count_replicate_self, Nat.add_assoc]

theorem count_fixedLlLens (l : Nat) :
    fixedLlLens.count l = if l = 7 then 24 else if l = 8 then 152 else if l = 9 then 112 else 0 := by
  simp only [fixedLlLens, List.count_append, List.count_replicate, beq_iff_eq]
  split_ifs <;> omega

/-- The first codes of the fixed literal/length table (R410). -/
theorem firstCode_fixedLlLens : firstCode fixedLlLens 7 = 0 ∧ firstCode fixedLlLens 8 = 0b00110000 ∧
    firstCode fixedLlLens 9 = 0b110010000 := by
  simp [firstCode, count_fixedLlLens]

/-- The first code of the fixed distance table (R411). -/
theorem firstCode_fixedDLens : firstCode fixedDLens 5 = 0 := by
  simp [firstCode, fixedDLens]

theorem patternsTaken_append (lens more : List Nat) (maxbits : Nat) :
    patternsTaken (lens ++ more) maxbits = patternsTaken lens maxbits + patternsTaken more maxbits := by
  simp only [patternsTaken, List.map_append, List.sum_append]

theorem patternsTaken_replicate {l maxbits : Nat} (n : Nat) (h : 0 < l ∧ l ≤ maxbits) :
    patternsTaken (List.replicate n l) maxbits = n * 2 ^ (maxbits - l) := by
  rw [patternsTaken, List.map_replicate, List.sum_replicate, if_pos h, smul_eq_mul]

/-- The fixed tables are complete (R403). -/
theorem fixedLens_complete : patternsTaken fixedLlLens 15 = 2 ^ 15 ∧ patternsTaken fixedDLens 15 = 2 ^ 15 := by
  simp (disch := decide) only [fixedLlLens, fixedDLens, patternsTaken_append, patternsTaken_replicate]
  decide

/-- Settles O37: the rows of R410 and R411 in order, from the first code of each length. -/
theorem fixedTablesHaveTheirCodes : Obligations.FixedTablesHaveTheirCodes := by
  obtain ⟨first7, first8, first9⟩ := firstCode_fixedLlLens
  refine ⟨fun s hs => ?_, fun s lo hi => ?_, fun s lo hi => ?_, fun s lo hi => ?_, fun d hd => ?_, ?_, ?_,
    fixedLens_complete⟩
  · have row := codeBits_of_run (lens := fixedLlLens) (pre := [])
      (by simp only [fixedLlLens, List.append_assoc]; rfl) hs
    simpa [first8] using row
  · obtain ⟨k, rfl⟩ := Nat.exists_eq_add_of_le lo
    have row := codeBits_of_run (lens := fixedLlLens) (pre := List.replicate 144 8) (n := 112) (l := 9) (k := k)
      (post := List.replicate 24 7 ++ List.replicate 8 8) (by simp only [fixedLlLens, List.append_assoc]) (by omega)
    simpa [first9, List.count_replicate, -List.reduceReplicate] using row
  · obtain ⟨k, rfl⟩ := Nat.exists_eq_add_of_le lo
    have row := codeBits_of_run (lens := fixedLlLens) (pre := List.replicate 144 8 ++ List.replicate 112 9) (n := 24)
      (l := 7) (k := k) (post := List.replicate 8 8) (by simp only [fixedLlLens, List.append_assoc]) (by omega)
    simpa [first7, List.count_replicate, -List.reduceReplicate] using row
  · obtain ⟨k, rfl⟩ := Nat.exists_eq_add_of_le lo
    have row := codeBits_of_run (lens := fixedLlLens)
      (pre := List.replicate 144 8 ++ List.replicate 112 9 ++ List.replicate 24 7) (n := 8) (l := 8) (k := k)
      (post := []) (by simp only [fixedLlLens, List.append_nil]) (by omega)
    simpa [first8, List.count_replicate, -List.reduceReplicate] using row
  · have row := codeBits_of_run (lens := fixedDLens) (pre := []) (n := 32) (l := 5) (post := [])
      (by simp only [fixedDLens, List.append_nil, List.nil_append]) hd
    simpa [firstCode_fixedDLens] using row
  · simp [fixedLlLens, -List.reduceReplicate]
  · simp [fixedDLens, -List.reduceReplicate]

end Sys2Proof
end

section
/-! PROOFS. The step rules of a dynamic block's tables, after their reads: the counts, the code-length code, the code
lengths and CompleteTables (42_huffman.md R420 to R427). -/

namespace Sys2Proof.Machine

/-! ### The counts and the code-length code -/

theorem hlitCount_eq_ofNat (v : BitVec 5) : hlitCount v = BitVec.ofNat 9 (v.toNat + 257) := by
  simpa using hlitCount_ofNat v.isLt

theorem hdistCount_eq_ofNat (v : BitVec 5) : hdistCount v = BitVec.ofNat 6 (v.toNat + 1) := by
  simpa using hdistCount_ofNat v.isLt

theorem hclenCount_eq_ofNat (v : BitVec 4) : hclenCount v = BitVec.ofNat 5 (v.toNat + 4) :=
  BitVec.eq_of_toNat_eq (by rw [hclenCount_toNat, BitVec.toNat_ofNat]; omega)

/-- R420: a count of more than 286 is a field of 30 or 31. -/
theorem hlitMax_lt_hlitCount (v : BitVec 5) : Config.hlitMax < (hlitCount v).toNat ↔ 30 ≤ v.toNat := by
  rw [hlitCount_toNat, Config.hlitMax]; omega

theorem hdistMax_lt_hdistCount (v : BitVec 5) : Config.hdistMax < (hdistCount v).toNat ↔ 30 ≤ v.toNat := by
  rw [hdistCount_toNat, Config.hdistMax]; omega

/-- Settles O13: the counts are out of range exactly where the fields are 30 or 31. -/
theorem dynamicCountsAreChecked : Obligations.DynamicCountsAreChecked := by
  intro hlit hdist hclen s
  have run : exec (.dynHdr hlit hdist hclen) s = execDynHdr hlit hdist hclen s := rfl
  simp only [run, execDynHdr, hlitMax_lt_hlitCount, hdistMax_lt_hdistCount, ← hlitCount_eq_ofNat,
    ← hdistCount_eq_ofNat, ← hclenCount_eq_ofNat, raiseCorrupt]
  refine ⟨fun hl hd => ?_, fun hl => ?_, fun hl hd => ?_⟩
  · rw [if_neg (by omega), if_neg (by omega)]
  · rw [if_pos hl]
  · rw [if_neg (by omega), if_pos hd]

/-- Settles O14: `loadClLens` stores the fields in ORDER, and the verdict is Build's on what it stored. -/
theorem codeLengthCodeIsLoadedInOrder : Obligations.CodeLengthCodeIsLoadedInOrder := by
  intro cll s _ most
  have run : exec (.dynCllens cll) s = execDynCllens cll s := rfl
  refine ⟨loadClLens cll, fun k hk => ?_, fun k hk hlt => ?_, fun sound => ?_, fun many => ?_⟩
  · rw [loadClLens_order cll (hk.trans_le most), List.getD_eq_getElem _ _ hk, List.getElem?_eq_getElem hk]
  · rw [loadClLens_order cll hlt, List.getD_eq_default _ _ hk]
  · rw [run, execDynCllens]
    exact congrArg _ (if_neg (Bool.eq_false_iff.mp sound))
  · rw [run, execDynCllens]
    exact congrArg _ (if_pos many)

/-! ### CompleteTables -/

/-- Settles O5: the lengths are split as the rule splits them, and the checks are its checks in order. -/
theorem tablesAreCheckedInOrder : Obligations.TablesAreCheckedInOrder := by
  intro s
  simp only [completeTables, llLengths, dLengths, List.map_take, List.map_drop, raiseCorrupt]
  rfl

theorem finishLens_of_more {s : State} (h : s.idx.toNat ≠ lensTotal s) : finishLens s = s := if_neg h

theorem finishLens_of_last {s : State} (h : s.idx.toNat = lensTotal s) : finishLens s = completeTables s := if_pos h

/-! ### The code lengths -/

/-- Settles O15: each of the sixteen symbols defines one length, and the count of the lengths says whether it is the
last. -/
theorem codeLengthSymbolsDefineOneLength : Obligations.CodeLengthSymbolsDefineOneLength := by
  intro p s hp
  have run : exec p.1 s = .next (defineLen p.2 s) := by fin_cases hp <;> rfl
  have next : (s.idx + 1).toNat = (s.idx.toNat + 1) % 512 := BitVec.toNat_add ..
  rw [run, defineLen]
  refine ⟨fun more => congrArg _ (finishLens_of_more ?_), fun last fits => congrArg _ (finishLens_of_last ?_)⟩
  · change (s.idx + 1).toNat ≠ s.hlit.toNat + s.hdist.toNat
    omega
  · change (s.idx + 1).toNat = s.hlit.toNat + s.hdist.toNat
    omega

/-- A run's lengths take its value, and every other length stays (R422). -/
theorem getElem?_fillLens (val : BitVec 4) (rep start : Nat) (lens : Vector (BitVec 4) 316) {j : Nat} (hj : j < 316) :
    (fillLens val rep start lens)[j]? = if start ≤ j ∧ j < start + rep then some val else lens[j]? := by
  induction rep generalizing start lens with
  | zero => rw [if_neg (by omega)]; rfl
  | succ rep ih =>
    rw [fillLens, ih, Vector.getElem?_setIfInBounds]
    by_cases first : start = j
    · subst first
      simp [hj]
    · have rest : (start + 1 ≤ j ∧ j < start + 1 + rep) ↔ (start ≤ j ∧ j < start + (rep + 1)) := by omega
      simp only [rest, if_neg first]

/-- A run past the total writes nothing (R424 to R426). -/
theorem defineRun_of_past {rep : Nat} {s : State} (val : BitVec 4) (h : lensTotal s < s.idx.toNat + rep) :
    defineRun rep val s = raise (.corruptBlock .repeatOverrun) s := if_pos h

theorem defineRun_of_fits {rep : Nat} {s : State} (val : BitVec 4) (h : s.idx.toNat + rep ≤ lensTotal s) :
    defineRun rep val s = finishLens { s with
      lens := fillLens val rep s.idx.toNat s.lens
      idx := BitVec.ofNat 9 (s.idx.toNat + rep) } := if_neg (Nat.not_lt.mpr h)

/-- CL symbol 16 with a length before the next one repeats it (R424). -/
theorem exec_cl16_of_previous {s : State} {r : BitVec 2} {val : BitVec 4} (some_before : s.idx ≠ 0)
    (previous : s.lens.toList[s.idx.toNat - 1]? = some val) :
    exec (.cl16 r) s = .next (defineRun (3 + r.toNat) val s) := by
  have value : previousLen s = val := by rw [previousLen, List.getD_eq_getElem?_getD, previous, Option.getD_some]
  have run : exec (.cl16 r) s = execCl16 r s := rfl
  rw [run, execCl16, if_neg some_before, value]

/-- Settles O16: symbols 16 to 18 define a run, and the run's end says whether it is one too long, the last, or not. -/
theorem repeatSymbolsDefineRuns : Obligations.RepeatSymbolsDefineRuns := by
  intro s i rep val symbol total
  have run : exec i s = .next (defineRun rep val s) := by
    obtain ⟨r, rfl, rfl, before, previous⟩ | ⟨r, rfl, rfl, rfl⟩ | ⟨r, rfl, rfl, rfl⟩ := symbol
    · exact exec_cl16_of_previous before previous
    · rfl
    · rfl
  rw [run]
  refine ⟨fun past => congrArg _ (defineRun_of_past val past), fun fits => ?_, fun r none_before => ?_⟩
  · have reached : (BitVec.ofNat 9 (s.idx.toNat + rep)).toNat = s.idx.toNat + rep := by
      rw [BitVec.toNat_ofNat]; omega
    refine ⟨fillLens val rep s.idx.toNat s.lens, fun j hj => ?_, fun more => ?_, fun last => ?_⟩
    · rw [Vector.getElem?_toList, Vector.getElem?_toList, getElem?_fillLens val rep _ _ hj]
    · rw [defineRun_of_fits val fits]
      exact congrArg _ (finishLens_of_more (reached.trans_ne more.ne))
    · rw [defineRun_of_fits val fits]
      exact congrArg _ (finishLens_of_last (reached.trans last))
  · exact congrArg _ (if_pos none_before)

end Sys2Proof.Machine
end

section
/-! PROOFS. The steps that meet bits that are no code (42_huffman.md R404, R422; 43_symbols.md R450, R453). -/

namespace Sys2Proof

theorem oversubscribed_eq_false_iff {lens : List Nat} {maxbits : Nat} :
    oversubscribed lens maxbits = false ↔ patternsTaken lens maxbits ≤ 2 ^ maxbits := by
  rw [← Bool.not_eq_true, oversubscribedMeansTooManyPatterns, Nat.not_lt]

/-- Decoding rejects the bits `bs` at `c` with the error `e`, with no field captured before. -/
def Rejects (d : Decoded) (c : Cursor) (bs : List Bool) (e : Err) : Prop :=
  ∃ c', d = .illegal e .nothing c' ∧ Follows bs c c'

section
variable {c : Cursor} {bs rest : List Bool}

theorem decodeClSym_rejects {cl : List Nat} (sound : oversubscribed cl 7 = false) (h : c.Fine)
    (hb : c.bits = bs ++ rest) (length : bs.length = 7) (noCode : ∀ s, hasCode cl 7 s → ¬ codeBits cl s <+: bs) :
    Rejects (decodeClSym cl c) c bs (.corruptBlock .clNocode) := by
  obtain ⟨c', answer, took⟩ := huffDecode_rejects sound h hb length noCode
  exact ⟨c', by simp only [decodeClSym, Config.maxBitsCL, answer, Read.andThen, Option.bind_none], took⟩

theorem decodeDSym_rejects {d : List Nat} (before : List Instr) (sound : oversubscribed d 15 = false) (h : c.Fine)
    (hb : c.bits = bs ++ rest) (length : bs.length = 15) (noCode : ∀ s, hasCode d 15 s → ¬ codeBits d s <+: bs) :
    Rejects (decodeDSym before d c) c bs (.corruptBlock .dNocode) := by
  obtain ⟨c', answer, took⟩ := huffDecode_rejects sound h hb length noCode
  exact ⟨c', by simp only [decodeDSym, Config.maxBitsLD, answer, Read.andThen, Option.bind_none], took⟩

theorem decodeLlSym_rejects {ll : List Nat} (d : List Nat) (sound : oversubscribed ll 15 = false) (h : c.Fine)
    (hb : c.bits = bs ++ rest) (length : bs.length = 15) (noCode : ∀ s, hasCode ll 15 s → ¬ codeBits ll s <+: bs) :
    Rejects (decodeLlSym ll d c) c bs (.corruptBlock .llNocode) := by
  obtain ⟨c', answer, took⟩ := huffDecode_rejects sound h hb length noCode
  exact ⟨c', by simp only [decodeLlSym, Config.maxBitsLD, answer, Read.andThen], took⟩

/-- A length symbol's code and extra bits come first: decoding goes on with its distance symbol (R209, R453). -/
theorem decodeLlSym_of_length {ll : List Nat} (d : List Nat) {l : Nat} {ext left : List Bool} (lo : 257 ≤ l)
    (hi : l ≤ 285) (code : hasCode ll 15 l) (hext : ext.length = lengthExtra.getD (l - 257) 0) (h : c.Fine)
    (hb : c.bits = codeBits ll l ++ (ext ++ left)) :
    ∃ before c', decodeLlSym ll d c = decodeDSym before d c' ∧ Follows (codeBits ll l ++ ext) c c' ∧
      c'.bits = left := by
  obtain ⟨c1, answer, took1⟩ := huffDecode_takes code h hb
  have left1 : c1.bits = ext ++ left := List.append_cancel_left (took1.bits.symm.trans hb)
  have extra : c1.bits.take (lengthExtra.getD (l - 257) 0) = ext := by rw [left1, ← hext, List.take_left]
  have enough : lengthExtra.getD (l - 257) 0 ≤ c1.bits.length := by rw [left1, List.length_append, ← hext]; omega
  obtain ⟨c2, read, took2⟩ := readBits_enough (lengthExtra_le _) took1.fine enough
  rw [extra] at read took2
  obtain ⟨f, row⟩ : ∃ f, lengthInstrs[l - 257]? = some f := by
    have inside : l - 257 < 29 := by omega
    exact ⟨_, List.getElem?_eq_getElem (l := lengthInstrs) inside⟩
  refine ⟨[f (BitVec.ofNat (lengthExtra.getD (l - 257) 0) (bitsValue ext)).toNat], c2, ?_, took1.trans took2,
    List.append_cancel_left (took2.bits.symm.trans left1)⟩
  simp only [decodeLlSym, Config.maxBitsLD, answer, Read.andThen, row, read]
  rw [if_neg (by omega), if_neg (by omega), if_neg (by omega), if_neg (by omega)]

theorem decodeLlSym_rejects_distance {ll d : List Nat} {l : Nat} {ext : List Bool} (lo : 257 ≤ l) (hi : l ≤ 285)
    (code : hasCode ll 15 l) (hext : ext.length = lengthExtra.getD (l - 257) 0) (sound : oversubscribed d 15 = false)
    (h : c.Fine) (hb : c.bits = codeBits ll l ++ (ext ++ (bs ++ rest))) (length : bs.length = 15)
    (noCode : ∀ s, hasCode d 15 s → ¬ codeBits d s <+: bs) :
    Rejects (decodeLlSym ll d c) c (codeBits ll l ++ (ext ++ bs)) (.corruptBlock .dNocode) := by
  obtain ⟨before, c1, onward, took, left⟩ := decodeLlSym_of_length d lo hi code hext h hb
  obtain ⟨c2, rejected, took'⟩ := decodeDSym_rejects before sound took.fine left length noCode
  exact ⟨c2, onward.trans rejected, List.append_assoc .. ▸ took.trans took'⟩

end

end Sys2Proof

namespace Sys2Proof.Machine

/-- The tables of the block are sound in SYMBOL (R427): the fixed ones are complete, the dynamic ones were checked. -/
theorem Legal.blockTables_sound {s : State} (h : Legal s) (hp : s.phase = .symbol) :
    oversubscribed (blockLlLengths s) 15 = false ∧ oversubscribed (blockDLengths s) 15 = false := by
  by_cases fixed : s.tblFixed = true
  · simp only [blockLlLengths, blockDLengths, if_pos fixed, oversubscribed_eq_false_iff]
    exact ⟨fixedLens_complete.1.le, fixedLens_complete.2.le⟩
  · have tables := (h.ready.tables (.inl hp)).resolve_left fixed
    simp only [blockLlLengths, blockDLengths, if_neg fixed]
    exact ⟨tables.llFits, tables.dFits⟩

/-- The step raises the error of the bits that its element rejects, with them taken and nothing else written. -/
theorem engineStep_of_rejects {s : State} (h : Legal s) {x : Expect} (hx : expected s = some x)
    (start : x ≠ .storedLen ∧ x ≠ .trailer) {bs : List Bool} {e : Err}
    (hd : Rejects (decode x (cursorOf s)) (elementStart x (cursorOf s)) bs e) :
    ∃ u, Took bs s u ∧ engineStep s = .next (raise e u) := by
  obtain ⟨c, rejected, follows⟩ := hd
  have took := took_advance h.values.placed follows
  rw [if_neg (not_or.mpr start)] at took
  exact ⟨advanceTo c s, took, (raised_of_illegal hx rejected).2⟩

/-- Settles O46: the bits Decode reports are past every code, and each of the three steps raises what its decoder
rejects. -/
theorem onlyIncompleteTablesRejectBits : Obligations.OnlyIncompleteTablesRejectBits := by
  refine ⟨fun lens maxbits c c' _ h1 h8 answer => ?_, fun s bs rest legal => ?_⟩
  · have spelled := huffDecode_none_says lens maxbits (c := c) ⟨h1, h8⟩
    rw [answer] at spelled
    cases spelled with
    | ok _ bs _ ends follows =>
      obtain ⟨length, incomplete⟩ := ends rfl
      exact ⟨incomplete, bs, length, follows.bits⟩
  have fine := cursorOf_fine legal.values
  have symbolStep (hp : s.phase = .symbol) : expected s = some (.llSym (blockLlLengths s) (blockDLengths s)) := by
    simp [expected, hp, legal.values.matchLen]
  refine ⟨fun hp hb length noCode => ?_, fun hp hb length noCode => ?_,
    fun l ext lo hi code hext hp hb length noCode => ?_⟩
  · have hx : expected s = some (.clSym (clLengths s)) := by simp [expected, hp]
    exact engineStep_of_rejects legal hx (by simp)
      (decodeClSym_rejects (legal.ready.lengths hp).2 fine hb length noCode)
  · have rejected := decodeLlSym_rejects (blockDLengths s) (legal.blockTables_sound hp).1 fine hb length noCode
    exact engineStep_of_rejects legal (symbolStep hp) (by simp) rejected
  · have rejected := decodeLlSym_rejects_distance lo hi code hext (legal.blockTables_sound hp).2 fine hb length noCode
    exact engineStep_of_rejects legal (symbolStep hp) (by simp) rejected

end Sys2Proof.Machine
end

section
/-! PROOFS. The symbols of a compressed block (43_symbols.md R450 to R523): the meanings of the literal, length and
distance instructions, the two halves of a pair together, and a literal's step from the bits of the stream. -/

namespace Sys2Proof.Machine

/-! ### Literals and end of block -/

/-- A literal's step (R451) is its Emit, or nothing while no byte is taken (R662). -/
theorem exec_lit (b : Byte) (s : State) :
    exec (.lit b) s = if s.outReady then .next (emit b s) else .next s := rfl

theorem exec_lit_of_ready {s : State} (b : Byte) (ready : s.outReady = true) : exec (.lit b) s = .next (emit b s) := by
  rw [exec_lit, if_pos ready]

theorem exec_lit_of_held {s : State} (b : Byte) (held : s.outReady = false) : exec (.lit b) s = .next s := by
  rw [exec_lit, if_neg (by simp [held])]

/-- Settles O17: the two cases of the output port. -/
theorem literalIsDeliveredAndEobEndsTheBlock : Obligations.LiteralIsDeliveredAndEobEndsTheBlock :=
  fun _ => ⟨exec_lit_of_ready, exec_lit_of_held, rfl⟩

/-! ### Length symbols -/

/-- Settles O18: each arm is `beginMatch` at its row's base, without extra bits or with those of its operand. -/
theorem lengthSymbolsGiveTheMatchLength : Obligations.LengthSymbolsGiveTheMatchLength := by
  intro s
  have row (base lx : Nat) : Host.Outcome.next (φ := Fault) (ρ := Refusal) (beginMatch base lx s) =
      .next { s with matchLen := some (BitVec.ofNat 9 (base + lx)) } := rfl
  refine ⟨row 3 0, row 4 0, row 5 0, row 6 0, row 7 0, row 8 0, row 9 0, row 10 0, ?_⟩
  iterate 20 refine ⟨fun x => row _ x.toNat, ?_⟩
  exact row 258 0

/-! ### Distance symbols -/

/-- The copy is set up where the history reaches back far enough (R453, R554). -/
theorem startCopy_of_within {d : Nat} {s : State} (len : BitVec 9) (within : d ≤ s.hist.toNat) :
    startCopy len d s =
      { s with copyLen := len, copyDist := BitVec.ofNat 16 d, phase := .copy, matchLen := none } :=
  if_neg (Nat.not_lt.mpr within)

theorem startCopy_of_beyond {d : Nat} {s : State} (len : BitVec 9) (beyond : s.hist.toNat < d) :
    startCopy len d s = raise .windowUnderflow s := if_pos beyond

section
variable {s : State}

theorem finishMatch_of_some {len : BitVec 9} (pending : s.matchLen = some len) (base dx : Nat) :
    finishMatch base dx s = .next (startCopy len (base + dx) s) := by
  simp only [finishMatch, pending, matchDistance]

theorem finishMatch_of_none (alone : s.matchLen = none) (base dx : Nat) :
    finishMatch base dx s = .fault .distanceWithoutLength := by
  simp only [finishMatch, alone]

theorem rejectDistance_of_some {len : BitVec 9} (pending : s.matchLen = some len) :
    rejectDistance s = .next (raise (.corruptBlock .dSymInvalid) s) := by
  simp only [rejectDistance, pending, raiseCorrupt]

theorem rejectDistance_of_none (alone : s.matchLen = none) : rejectDistance s = .fault .distanceWithoutLength := by
  simp only [rejectDistance, alone]

end

/-- Settles O19: each arm is `finishMatch` at its row's base, without extra bits or with those of its operand. -/
theorem distanceSymbolsStartTheCopy : Obligations.DistanceSymbolsStartTheCopy := by
  intro s l pending
  have row (base dx : Nat) (within : base + dx ≤ s.hist.toNat) : finishMatch base dx s = .next
      { s with copyLen := l, copyDist := BitVec.ofNat 16 (base + dx), phase := .copy, matchLen := none } := by
    rw [finishMatch_of_some pending, startCopy_of_within l within]
  refine ⟨row 1 0, row 2 0, row 3 0, row 4 0, ?_⟩
  and_intros
  all_goals exact fun x => row _ x.toNat

/-- Settles O20: both literal/length symbols raise at once, both distance symbols on the pending length. -/
theorem invalidSymbolsAreCorrupt : Obligations.InvalidSymbolsAreCorrupt :=
  fun _ => ⟨rfl, rfl, fun _ pending => ⟨rejectDistance_of_some pending, rejectDistance_of_some pending⟩⟩

/-! ### A length and its distance as one element -/

/-- A distance symbol without a length before it is no element (R210): the model stops with its fault. -/
theorem exec_distance_alone {s : State} {j : Instr} (alone : s.matchLen = none) (format : j.format = .dSym) :
    exec j s = .fault .distanceWithoutLength := by
  rcases exec_dSym format with ⟨base, dx, -, run⟩ | run
  · rw [run, finishMatch_of_none alone]
  · rw [run, rejectDistance_of_none alone]

/-- Settles O43: the length instruction leaves its match length, on which the distance instruction of the pair acts;
an error clears it, so the pair raises from the state before it. -/
theorem lengthDistancePairStartsTheCopy : Obligations.LengthDistancePairStartsTheCopy := by
  refine ⟨fun s i j n hn => ?_, fun s j alone format => exec_distance_alone alone format⟩
  obtain ⟨lengths, run⟩ := length_symbol_exec i n hn
  rw [execAll_two (run s)]
  refine ⟨lengths, fun d hd => ?_, ?_⟩
  · obtain ⟨distances, run⟩ := distance_symbol_exec j d hd
    rw [run _ _ rfl]
    refine ⟨distances, fun within => ?_, fun beyond => ?_⟩
    · exact congrArg _ (startCopy_of_within _ within)
    · exact congrArg _ (startCopy_of_beyond _ beyond)
  · rintro (rfl | rfl) <;> exact rejectDistance_of_some (s := { s with matchLen := _ }) rfl

/-! ### A literal's step -/

/-- Where a literal's code comes next, it is read and taken (R209, R450). -/
theorem decodeLlSym_of_literal {ll : List Nat} (d : List Nat) {b : Byte} {c : Cursor} {rest : List Bool}
    (code : hasCode ll Config.maxBitsLD b.toNat) (h : c.Fine) (hb : c.bits = codeBits ll b.toNat ++ rest) :
    ∃ c', decodeLlSym ll d c = .elem [.lit b] c' ∧ Follows (codeBits ll b.toNat) c c' := by
  obtain ⟨c', read, taken⟩ := huffDecode_takes code h hb
  refine ⟨c', ?_, taken⟩
  simp only [decodeLlSym, read, Read.andThen, if_pos (Nat.le_of_lt_succ b.isLt), BitVec.ofNat_toNat, BitVec.setWidth_eq]

/-- Step SYMBOL where a literal's code comes next, whatever the tables: the code is taken and the step is the literal's,
or the whole step holds (R450, R451, R662). -/
theorem step_symbol_of_literal {s : State} {b : Byte} {rest : List Bool} (hv : LegalValues s) (ha : s.agenda = [])
    (hp : s.phase = .symbol) (code : hasCode (blockLlLengths s) Config.maxBitsLD b.toNat)
    (hb : (cursorOf s).bits = codeBits (blockLlLengths s) b.toNat ++ rest) :
    (s.outReady = true → ∃ u, Took (codeBits (blockLlLengths s) b.toNat) s u ∧ step s = .next (emit b u)) ∧
      (s.outReady = false → step s = .next s) := by
  have hx : expected s = some (.llSym (blockLlLengths s) (blockDLengths s)) := by simp [expected, hp, hv.matchLen]
  obtain ⟨c, read, taken⟩ := decodeLlSym_of_literal (blockDLengths s) code (cursorOf_fine hv) hb
  have took := took_advance (x := .llSym (blockLlLengths s) (blockDLengths s)) hv.placed taken
  have got : fetch (.llSym (blockLlLengths s) (blockDLengths s)) s = .got [.lit b] (advanceTo c s) := by
    simp only [fetch, decode, read]
  simp only [step, ha]
  refine ⟨fun ready => ⟨advanceTo c s, by simpa using took, ?_⟩, held_of_emits hx read rfl⟩
  rw [engineStep_of_got hx got (by simp [ready]), execAll_one]
  exact exec_lit_of_ready b ready

/-- The fixed code of a literal (R410). -/
theorem codeBits_fixed_literal (b : Byte) : codeBits fixedLlLens b.toNat =
    if b.toNat < 144 then msbBits 8 (0b00110000 + b.toNat) else msbBits 9 (0b110010000 + (b.toNat - 144)) := by
  obtain ⟨short, long, -⟩ := fixedTablesHaveTheirCodes
  split_ifs with below
  · exact short _ below
  · exact long _ (Nat.not_lt.mp below) b.isLt

/-- Every literal has a fixed code: one of 8 or 9 bits (R410), in a complete table. -/
theorem hasCode_fixed_literal (b : Byte) : hasCode fixedLlLens Config.maxBitsLD b.toNat := by
  have bits := congrArg List.length (codeBits_fixed_literal b)
  rw [length_codeBits] at bits
  have sound : oversubscribed fixedLlLens 15 = false := oversubscribed_eq_false_iff.mpr fixedLens_complete.1.le
  rw [hasCode, bits]
  split_ifs <;> simp [Config.maxBitsLD, sound]

/-- Settles O42: the step of a literal by the fixed tables, whose codes are those of R410. -/
theorem fixedBlockLiteralIsEmitted : Obligations.FixedBlockLiteralIsEmitted := by
  intro s b rest hv ha hp fixed code hb
  have table : blockLlLengths s = fixedLlLens := if_pos fixed
  have spelled : codeBits (blockLlLengths s) b.toNat = code := table ▸ codeBits_fixed_literal b
  obtain ⟨delivered, held⟩ := step_symbol_of_literal hv ha hp (table ▸ hasCode_fixed_literal b) (spelled ▸ hb)
  refine ⟨fun ready => ?_, held⟩
  obtain ⟨u, took, run⟩ := delivered ready
  exact ⟨u, spelled ▸ took, run, (congrArg State.phase took.keeps).trans hp⟩

end Sys2Proof.Machine
end

section
/-! PROOFS. The window (44_lz77_window.md R550 to R558): what Emit delivers, that a step delivers at most one byte, and
the copy of a match, by induction over its length. -/

namespace Sys2Proof.Machine

/-! ### Emit -/

/-- The history counts the byte and stops at the window size (R550). -/
theorem histNext_eq (h : BitVec 16) : histNext h = BitVec.ofNat 16 (min (h.toNat + 1) 32768) := by
  unfold histNext Config.windowSize
  split
  · rw [Nat.min_eq_left (by omega), BitVec.ofNat_add, BitVec.ofNat_toNat, BitVec.setWidth_eq]; rfl
  · rw [Nat.min_eq_right (by omega)]; rfl

/-- Settles O2: the fields by `histNext_eq`, the window by what a read after Emit gives. -/
theorem emitDeliversOneByte : Obligations.EmitDeliversOneByte := by
  intro b s
  refine ⟨?_, ?_, fun a other => ?_⟩
  · rw [← histNext_eq]; rfl
  · rw [windowRead_emit, if_pos rfl]
  · rw [windowRead_emit, if_neg other]

/-! ### Step COPY -/

/-- The engine's step in COPY is its Emit, or nothing while no byte is taken (R555, R662). -/
theorem engineStep_copy {s : State} (hp : s.phase = .copy) :
    engineStep s = if s.outReady then .next (emit (copyByte s) (countCopy s)) else .next s := if_pos hp

theorem countCopy_of_last {s : State} (h : s.copyLen = 1) :
    countCopy s = { s with copyLen := 0, phase := .symbol } := by
  simp [countCopy, h]

theorem countCopy_of_more {s : State} (h : s.copyLen ≠ 1) : countCopy s = { s with copyLen := s.copyLen - 1 } := by
  have more : s.copyLen - 1 ≠ 0 := fun e => h (sub_eq_zero.mp e)
  rw [countCopy, if_neg more]

/-- Settles O44: the byte is the one at `windowIndex`, and the count has the last byte's case apart. -/
theorem copyStepCopiesOneByte : Obligations.CopyStepCopiesOneByte := by
  intro s ha hp hd
  have run : step s = engineStep s := by rw [step, ha]
  rw [run, engineStep_copy hp, copyByte, windowIndex_eq s hd]
  refine ⟨fun ready more => ?_, fun ready last => ?_, fun held => ?_⟩
  · rw [if_pos ready, countCopy_of_more more]
  · rw [if_pos ready, countCopy_of_last last]
  · rw [if_neg (by simp [held])]

/-! ### The copy of a match -/

/-- `out'` goes on from `out` with bytes that each repeat the one `d` before it (R555). -/
structure Repeats (d : Nat) (out out' : List Byte) : Prop where
  grows : out <+: out'
  back : ∀ i, out.length ≤ i → i < out'.length → out'[i]? = out'[i - d]?

theorem Repeats.refl (d : Nat) (out : List Byte) : Repeats d out out where
  grows := List.prefix_rfl
  back := fun _ hi hlt => absurd hlt (Nat.not_lt.mpr hi)

/-- One byte more in front, where it is the byte `d` before it. -/
theorem Repeats.cons {d : Nat} {out out' : List Byte} {b : Byte} (h : Repeats d (out ++ [b]) out')
    (hb : out[out.length - d]? = some b) : Repeats d out out' where
  grows := (List.prefix_append out [b]).trans h.grows
  back := fun i hi hlt => by
    obtain ⟨more, rfl⟩ := h.grows
    rcases Nat.eq_or_lt_of_le hi with rfl | later
    · have before : out.length - d < out.length := (List.getElem?_eq_some_iff.mp hb).1
      rw [List.append_assoc, List.getElem?_append_left before, hb]
      simp
    · exact h.back i (by simpa using later) hlt

/-- A run of repeated bytes goes round the `d` bytes before it, also where it overlaps itself (R556). -/
theorem Repeats.periodic {d : Nat} {out out' : List Byte} (h : Repeats d out out') (hd : 1 ≤ d)
    (hle : d ≤ out.length) (k : Nat) (hk : out.length + k < out'.length) :
    out'[out.length + k]? = out[out.length - d + k % d]? := by
  induction k using Nat.strongRecOn with
  | ind k ih =>
    rw [h.back _ (Nat.le_add_right ..) hk]
    rcases Nat.lt_or_ge k d with first | later
    · obtain ⟨more, rfl⟩ := h.grows
      rw [Nat.mod_eq_of_lt first, Nat.sub_add_comm hle, List.getElem?_append_left (by omega)]
    · rw [Nat.add_sub_assoc later, ih (k - d) (by omega) (by omega), Nat.mod_eq_sub_mod later]

/-- A copy within the history reads the byte delivered `copy_dist` bytes ago (R553, R555). -/
theorem outBehind_copyDist {s : State} (h : Accounts s) (h1 : 1 ≤ s.copyDist.toNat)
    (hh : s.copyDist.toNat ≤ s.hist.toNat) : outBehind s s.copyDist.toNat = some (copyByte s) := by
  have hist := h.hist
  obtain ⟨b, hb⟩ : ∃ b, outBehind s s.copyDist.toNat = some b :=
    ⟨_, List.getElem?_eq_getElem (by omega)⟩
  rw [copyByte, windowRead, windowIndex_eq s (by omega), h.window _ h1 hh, hb, Option.getD_some]

theorem accounts_countCopy {s : State} (h : Accounts s) (hp : s.phase = .copy) : Accounts (countCopy s) := by
  refine h.quiet ⟨rfl, rfl, rfl, rfl, rfl, rfl⟩ fun header => ?_
  rw [countCopy_phase, hp] at header
  split at header <;> simp [headerPhase] at header

theorem toNat_copyLen_pred {s : State} {n : Nat} (h : s.copyLen.toNat = n + 1) : (s.copyLen - 1).toNat = n := by
  rw [BitVec.toNat_sub_of_le (BitVec.le_def.mpr (by simp; omega)), h]; rfl

/-- The whole copy: `copy_len` steps back to the symbol loop, each delivering the byte `copy_dist` behind (R555). -/
theorem runSteps_copy (n : Nat) : ∀ {s : State}, Legal s → Accounts s → s.agenda = [] → s.outReady = true →
    s.phase = .copy → s.copyLen.toNat = n → ∃ t, runSteps n s = .next t ∧ t.phase = .symbol ∧ t.ip = s.ip ∧
      t.bitpos = s.bitpos ∧ t.outBytes.length = s.outBytes.length + n ∧
      Repeats s.copyDist.toNat s.outBytes t.outBytes := by
  induction n with
  | zero =>
    intro s h _ _ _ hp hn
    have := (h.ready.copying hp).1
    omega
  | succ n ih =>
    intro s h acc ha ready hp hn
    obtain ⟨-, hd, hh⟩ := h.ready.copying hp
    have back : s.outBytes[s.outBytes.length - s.copyDist.toNat]? = some (copyByte s) := outBehind_copyDist acc hd hh
    have run : step s = .next (emit (copyByte s) (countCopy s)) := by
      rw [step, ha]; exact (engineStep_copy hp).trans (if_pos ready)
    have count : (s.copyLen - 1).toNat = n := toNat_copyLen_pred hn
    simp only [runSteps, run]
    by_cases last : s.copyLen - 1 = 0
    · obtain rfl : n = 0 := by rw [← count, last]; rfl
      exact ⟨_, rfl, if_pos last, rfl, rfl, by simp, (Repeats.refl ..).cons back⟩
    · obtain ⟨counted, running⟩ := legal_countCopy h hp
      obtain ⟨t, runs, phase, ip, bitpos, length, repeats⟩ := ih (legal_emit (copyByte s) counted running)
        (accounts_emit _ (accounts_countCopy acc hp)) ha ready ((if_neg last).trans hp) count
      refine ⟨t, runs, phase, ip, bitpos, ?_, repeats.cons back⟩
      rw [length]; simp; omega

/-- Settles O58: the copy's bytes each repeat the one `copy_dist` before, so they go round the bytes before the copy. -/
theorem copyDeliversTheMatch : Obligations.CopyDeliversTheMatch := by
  intro s h acc ha ready hp
  obtain ⟨-, hd, hh⟩ := h.ready.copying hp
  obtain ⟨t, runs, phase, ip, bitpos, length, repeats⟩ := runSteps_copy _ h acc ha ready hp rfl
  have within : s.copyDist.toNat ≤ s.outBytes.length := by have := acc.hist; omega
  refine ⟨t, runs, phase, ip, bitpos, length, repeats.grows, fun k hk => ⟨?_, ?_⟩⟩
  · exact repeats.back _ (Nat.le_add_right ..) (by omega)
  · exact repeats.periodic hd within k (by omega)

/-! ### At most one byte a step -/

/-- `t` has delivered what `s` had, or one byte more, which `s` was in a phase to emit and after which there is no
error (R551). -/
def DeliversAtMostOne (s t : State) : Prop :=
  t.outBytes = s.outBytes ∨ (t.phase ≠ .error ∧ ∃ b, t.outBytes = s.outBytes ++ [b] ∧
    (s.phase = .storedCopy ∨ s.phase = .symbol ∨ s.phase = .copy))

/-- An emitting step from `s`, whose count and position are in `u` and, where it holds, `held`. -/
theorem emitOrHold_delivers {b : Byte} {s u held t : State}
    (hs : s.phase = .storedCopy ∨ s.phase = .symbol ∨ s.phase = .copy) (hu : u.outBytes = s.outBytes)
    (hh : held.outBytes = s.outBytes) (hp : u.phase ≠ .error) (ht : emitOrHold b u held = .next t) :
    DeliversAtMostOne s t := by
  unfold emitOrHold at ht
  split_ifs at ht <;> cases ht
  · exact .inr ⟨hp, b, by rw [emit_outBytes, hu], hs⟩
  · exact .inl hh

theorem countStored_outBytes (s : State) : (countStored s).outBytes = s.outBytes := by
  unfold countStored; split <;> rfl

theorem countStored_phase_ne_error {s : State} (hp : s.phase ≠ .error) : (countStored s).phase ≠ .error := by
  unfold countStored endOfBlock endPhase
  split_ifs <;> simp [hp]

theorem applyCapture_outBytes (k : Capture) (s : State) : (applyCapture k s).outBytes = s.outBytes := by
  cases k <;> rfl

/-- Instructions that emit nothing leave the output as it is. -/
theorem execAll_outBytes {is : List Instr} (stream : ∀ i ∈ is, i.format ≠ .host) (silent : is.any emits = false) :
    ∀ {s t : State}, execAll is s = .next t → t.outBytes = s.outBytes := by
  induction is with
  | nil => intro s t ht; cases ht; rfl
  | cons i is ih =>
    intro s t ht
    obtain ⟨hi, his⟩ := Bool.or_eq_false_iff.mp (silent : (emits i || is.any emits) = false)
    simp only [execAll] at ht
    split at ht
    · rename_i u hu
      have first : u.outBytes = s.outBytes :=
        ((Frame.of_rule (exec_rule (stream i List.mem_cons_self)) hu).output hi).1
      exact (ih (fun j hj => stream j (List.mem_cons_of_mem _ hj)) his ht).trans first
    · cases ht
    · cases ht

theorem emits_cases {i : Instr} (h : emits i = true) : (∃ b, i = .storedCopy b) ∨ ∃ b, i = .lit b := by
  cases i <;> simp [emits] at h
  case storedCopy b => exact .inl ⟨b, rfl⟩
  case lit b => exact .inr ⟨b, rfl⟩

/-- The elements that emit (R551): a stored byte and a literal, each alone in its step. -/
theorem shape_emits {x : Expect} {is : List Instr} (h : Shape x is) (he : is.any emits = true) :
    (x = .storedCopy ∧ ∃ b, is = [.storedCopy b]) ∨ ((∃ ll d, x = .llSym ll d) ∧ ∃ b, is = [.lit b]) := by
  cases x with
  | gzFixed => obtain ⟨_, _, _, _, rfl⟩ := h; cases he
  | blkHdr => obtain ⟨_, rfl | rfl | rfl | rfl⟩ := h <;> cases he
  | storedLen | trailer => obtain ⟨_, _, rfl⟩ := h; cases he
  | dynHdr => obtain ⟨_, _, _, rfl⟩ := h; cases he
  | dynCllens => obtain ⟨_, rfl, -⟩ := h; cases he
  | storedCopy => exact .inl ⟨rfl, h⟩
  | clSym | dSym =>
    obtain ⟨i, rfl, hi⟩ := h
    rcases emits_cases (by simpa using he) with ⟨b, rfl⟩ | ⟨b, rfl⟩ <;> cases hi
  | llSym ll d =>
    refine .inr ⟨⟨ll, d, rfl⟩, ?_⟩
    obtain ⟨i, rfl, hi, -⟩ | ⟨i, j, rfl, hi, hn, hj⟩ := h
    · rcases emits_cases (by simpa using he) with ⟨b, rfl⟩ | literal
      · cases hi
      · simpa using literal
    · rcases (by simpa using he : emits i = true ∨ emits j = true) with he | he
      · rcases emits_cases he with ⟨b, rfl⟩ | ⟨b, rfl⟩
        · cases hi
        · exact absurd (matchLengthOf_lit b) hn
      · rcases emits_cases he with ⟨b, rfl⟩ | ⟨b, rfl⟩ <;> cases hj
  | _ => obtain ⟨_, rfl⟩ := h; cases he

theorem phase_of_expected_storedCopy {s : State} (h : expected s = some .storedCopy) : s.phase = .storedCopy := by
  unfold expected at h
  cases hp : s.phase <;> simp [hp] at h ⊢
  split at h <;> simp at h

theorem phase_of_expected_llSym {s : State} {ll d : List Nat} (h : expected s = some (.llSym ll d)) :
    s.phase = .symbol := by
  unfold expected at h
  cases hp : s.phase <;> simp [hp] at h ⊢

theorem runElement_delivers {s t : State} (h : Legal s) {x : Expect} (hx : expected s = some x)
    (ht : runElement x s = .next t) : DeliversAtMostOne s t := by
  have ways := h.fetch_says hx
  unfold runElement at ht
  generalize fetch x s = r at ways ht
  cases ways with
  | got is bs c spelled =>
    obtain ⟨shape, -⟩ := spelled
    dsimp only at ht
    split at ht
    · cases ht; exact .inl rfl
    cases he : is.any emits with
    | false => exact .inl (execAll_outBytes (s := advanceTo c s) (shape_format shape) he ht)
    | true =>
      rcases shape_emits shape he with ⟨rfl, b, rfl⟩ | ⟨⟨ll, d, rfl⟩, b, rfl⟩ <;> rw [execAll_one] at ht
      · have hp := phase_of_expected_storedCopy hx
        exact emitOrHold_delivers (.inl hp) (u := countStored (advanceTo c s)) (held := advanceTo c s)
          (countStored_outBytes _) rfl (countStored_phase_ne_error (by simp [hp])) ht
      · have hp := phase_of_expected_llSym hx
        exact emitOrHold_delivers (.inr (.inl hp)) (u := advanceTo c s) (held := advanceTo c s)
          rfl rfl (by simp [hp]) ht
  | illegal => cases ht; exact .inl (applyCapture_outBytes _ _)
  | ended => cases ht; exact .inl (applyCapture_outBytes _ _)
  | hold => cases ht; exact .inl rfl

/-- Settles O51: the step of COPY, the steps that read nothing, and the elements. -/
theorem stepDeliversAtMostOneByte : Obligations.StepDeliversAtMostOneByte := by
  intro s t h ht
  change DeliversAtMostOne s t
  unfold engineStep at ht
  split_ifs at ht with hp
  · refine emitOrHold_delivers (.inr (.inr hp)) (u := countCopy s) (held := s) rfl rfl ?_ ht
    rw [countCopy_phase, hp]
    split_ifs <;> simp
  · split at ht
    · cases ht; exact .inl rfl
    · exact runElement_delivers h ‹_› ht

end Sys2Proof.Machine
end

section
/-! PROOFS. The accounts of a session (45_gzip_container.md R607, R610, R611; 44_lz77_window.md R553, R557, R558): what
each operation, rule, command and turn does to them. -/

namespace Sys2Proof.Machine

/-! ### The host's operations -/

/-- A session that has delivered nothing has nothing to account for (R654). -/
theorem accounts_resetSession (s : State) : Accounts (resetSession s) where
  isize := rfl
  hist := rfl
  wpos := rfl
  crc := rfl
  window := fun k h1 h2 => absurd (h1.trans h2) (by simp)
  header := nofun

/-- Start (R653): the header accumulator begins with no byte pulled. -/
theorem accounts_startSession (s : State) : Accounts (startSession s) :=
  { accounts_resetSession s with header := fun _ => rfl }

/-- Hardware reset (R750) is the reset of a session with CTRL and the window cleared. -/
theorem accounts_hardwareReset (s : State) : Accounts (hardwareReset s) :=
  accounts_resetSession { s with ctrlRaw := false, ctrlIrqEn := false, window := [], wEpoch := s.wEpoch + 1 }

theorem accounts_startCommand {s : State} (h : Accounts s) : Accounts (startCommand s) := by
  unfold startCommand
  split
  · exact h
  · exact accounts_startSession s

/-- A write of CTRL (R652): the fields, then SOFT_RESET, then START. -/
theorem accounts_writeCtrl {s : State} (h : Accounts s) (v : Word) : Accounts (writeCtrl v s) := by
  have fields : Accounts (writeCtrlFields v s) := { h with }
  have reset := accounts_resetSession (writeCtrlFields v s)
  simp only [writeCtrl]
  split_ifs
  · exact accounts_startCommand reset
  · exact accounts_startCommand fields
  · exact reset
  · exact fields

/-- The accounts speak only of what the host cannot change (R166): a byte presented is not yet pulled. -/
theorem Accounts.sameDecoding {s t : State} (h : Accounts s) (hip : s.ip ≤ s.inBytes.length) (d : SameDecoding s t) :
    Accounts t := by
  obtain ⟨l, e, -⟩ := d
  rw [e]
  exact { h with header := fun hp => by rw [List.take_append_of_le_length hip]; exact h.header hp }

/-! ### Reading and raising -/

/-- Reading on (R300): up to GZ_HCRC, the bytes pulled go into the header accumulator behind those pulled before
(R607). -/
theorem accounts_advanceTo {s : State} (h : Accounts s) (hp : s.phase ≠ .gzHcrc) {c : Cursor} {p : List Byte}
    (hd : s.inBytes.drop s.ip = p ++ c.rest) : Accounts (advanceTo c s) := by
  refine { h with header := fun header => ?_ }
  have goes : headerCrcPhase s.phase = true := by cases e : s.phase <;> simp_all [headerCrcPhase, headerPhase]
  have pulled : s.inBytes.take (s.ip + p.length) = s.inBytes.take s.ip ++ p := by
    rw [List.take_add, hd, List.take_left]
  rw [advanceTo_hcrcAcc, if_pos goes, advanceTo_inBytes, advanceTo_ip, pulledBytes_eq hd, pulled, List.foldl_append,
    h.header header]

theorem accounts_raise {s : State} (h : Accounts s) (e : Err) : Accounts (raise e s) :=
  { h with header := nofun }

/-- An error inside an element (R18, R704): the fields captured are not accounted for, and ERROR is no header phase. -/
theorem accounts_capture {s : State} (h : Accounts s) (e : Err) (k : Capture) (c : Cursor) :
    Accounts (raise e (applyCapture k (advanceTo c s))) := by
  cases k <;> exact { h with header := nofun }

/-! ### The operations of the step rules -/

section
variable {s : State} (h : Accounts s)
include h

/-- EndOfBlock (R357) leads to no header phase. -/
theorem accounts_endOfBlock : Accounts (endOfBlock s) := by
  have noHeader : headerPhase (endPhase s) = false := by unfold endPhase; split_ifs <;> rfl
  exact { h with header := fun header => absurd (noHeader.symm.trans header) (by decide) }

theorem accounts_countStored : Accounts (countStored s) := by
  have counted : Accounts { s with storedRem := s.storedRem - 1 } := { h with }
  unfold countStored
  split
  · exact accounts_endOfBlock counted
  · exact counted

/-- The end of a DYN_LENS step (R422, R427), with the lengths defined so far. -/
theorem accounts_lens (l : Vector (BitVec 4) 316) (i : BitVec 9) :
    Accounts (finishLens { s with lens := l, idx := i }) := by
  have defined : Accounts { s with lens := l, idx := i } := { h with }
  unfold finishLens completeTables
  split_ifs
  · exact accounts_raise defined _
  · exact accounts_raise defined _
  · exact accounts_raise defined _
  · exact { h with header := nofun }
  · exact defined

theorem accounts_defineRun (r : Nat) (v : BitVec 4) : Accounts (defineRun r v s) := by
  unfold defineRun
  split
  · exact accounts_raise h _
  · exact accounts_lens h _ _

theorem accounts_startCopy (n : BitVec 9) (d : Nat) : Accounts (startCopy n d s) := by
  unfold startCopy
  split
  · exact accounts_raise h _
  · exact { h with header := nofun }

end

/-- Every next state an outcome can be keeps the accounts. -/
def KeepsAccounts (o : Host.Outcome State Fault Refusal) : Prop := ∀ t, o = .next t → Accounts t

theorem keepsAccounts_next {s : State} (h : Accounts s) : KeepsAccounts (.next s) := fun t ht => by
  cases ht; exact h

theorem keepsAccounts_fault (f : Fault) : KeepsAccounts (.fault f) := fun _ ht => nomatch ht

theorem keepsAccounts_refused (r : Refusal) : KeepsAccounts (.refused r) := fun _ ht => nomatch ht

theorem keepsAccounts_emitOrHold {b : Byte} {u s : State} (hu : Accounts u) (hs : Accounts s) :
    KeepsAccounts (emitOrHold b u s) := by
  unfold emitOrHold
  split
  · exact keepsAccounts_next (accounts_emit b hu)
  · exact keepsAccounts_next hs

/-! ### The elements -/

/-- The formats of the header's fields (R201, R203). -/
def headerFormat : Format → Bool
  | .gzFixed | .gzXlen | .gzExtra | .gzName | .gzComment | .gzHcrc => true
  | _ => false

/-- Every rule keeps the accounts, where a header field is read in a header phase. -/
theorem StreamRule.keepsAccounts {i : Instr} {f : State → Host.Outcome State Fault Refusal} (rule : StreamRule i f)
    {s : State} (h : Accounts s) (hp : headerFormat i.format = true → headerPhase s.phase = true) :
    KeepsAccounts (f s) := by
  cases rule with
  | gzFixed => exact keepsAccounts_next { h with header := fun _ => h.header (hp rfl) }
  | gzXlen | gzExtra | gzName | gzComment =>
    refine keepsAccounts_next ?_
    split
    · exact { h with header := fun _ => h.header (hp rfl) }
    · exact { h with header := fun _ => h.header (hp rfl) }
  | gzHcrc | blkStored | blkFixed | blkDynamic | blkReserved | noLength =>
    exact keepsAccounts_next { h with header := nofun }
  | storedLen =>
    refine keepsAccounts_next ?_
    split_ifs
    · exact accounts_raise h _
    · exact accounts_endOfBlock h
    · exact { h with header := nofun }
  | storedCopy => exact keepsAccounts_emitOrHold (accounts_countStored h) h
  | dynHdr hl hd hc =>
    have counted : Accounts { s with hlit := hlitCount hl, hdist := hdistCount hd, hclen := hclenCount hc } :=
      { h with }
    refine keepsAccounts_next ?_
    split
    · exact accounts_raise counted _
    split
    · exact accounts_raise counted _
    · exact { h with header := nofun }
  | dynCllens cll =>
    have loaded : Accounts { s with clLens := loadClLens cll } := { h with }
    refine keepsAccounts_next ?_
    split
    · exact accounts_raise loaded _
    · exact { h with header := nofun }
  | codeLength => exact keepsAccounts_next (accounts_lens h _ _)
  | codeRepeat =>
    refine keepsAccounts_next ?_
    split
    · exact accounts_raise h _
    · exact accounts_defineRun h _ _
  | codeZeros => exact keepsAccounts_next (accounts_defineRun h _ _)
  | literal => exact keepsAccounts_emitOrHold h h
  | endOfBlock => exact keepsAccounts_next (accounts_endOfBlock h)
  | length => exact keepsAccounts_next { h with }
  | distance =>
    unfold finishMatch
    split
    · exact keepsAccounts_fault _
    · exact keepsAccounts_next (accounts_startCopy h _ _)
  | noDistance =>
    unfold rejectDistance
    split
    · exact keepsAccounts_fault _
    · exact keepsAccounts_next (accounts_raise h _)
  | trailer crc isize =>
    have captured : Accounts (captureTrailer crc isize s) := { h with }
    refine keepsAccounts_next ?_
    split_ifs
    · exact accounts_raise captured _
    · exact accounts_raise captured _
    · exact { captured with header := nofun }

/-- An element ends with one instruction, on the match length the length symbol before it may have left (R453). -/
theorem shape_runs_last {x : Expect} {is : List Instr} (hx : ∀ l, x ≠ .dSym l) (h : Shape x is) (s : State) :
    ∃ i ∈ is, ∃ n, execAll is s = exec i { s with matchLen := n } := by
  rcases shape_one_or_lenDist hx h with ⟨i, rfl, -⟩ | ⟨i, j, rfl, hi, -⟩
  · exact ⟨i, by simp, s.matchLen, execAll_one i s⟩
  · obtain ⟨n, hn⟩ := Option.ne_none_iff_exists'.mp hi
    exact ⟨j, by simp, _, execAll_two ((length_symbol_exec i n hn).2 s)⟩

/-- The header's fields are read in the header phases only (R52, R212). -/
theorem headerPhase_of_headerFormat {s : State} {x : Expect} (hx : expected s = some x) {is : List Instr}
    (hs : Shape x is) : ∀ i ∈ is, headerFormat i.format = true → headerPhase s.phase = true := by
  cases x with
  | gzFixed | gzXlen | gzExtra | gzName | gzComment | gzHcrc =>
    intro _ _ _
    unfold expected at hx
    cases hp : s.phase <;> simp [hp, headerPhase] at hx ⊢
    split at hx <;> simp at hx
  | blkHdr => obtain ⟨_, rfl | rfl | rfl | rfl⟩ := hs <;> simp [Instr.format, headerFormat]
  | storedLen | trailer => obtain ⟨_, _, rfl⟩ := hs; simp [Instr.format, headerFormat]
  | storedCopy => obtain ⟨_, rfl⟩ := hs; simp [Instr.format, headerFormat]
  | dynHdr => obtain ⟨_, _, _, rfl⟩ := hs; simp [Instr.format, headerFormat]
  | dynCllens => obtain ⟨_, rfl, -⟩ := hs; simp [Instr.format, headerFormat]
  | clSym | dSym => obtain ⟨_, rfl, hi⟩ := hs; simp [hi, headerFormat]
  | llSym => obtain ⟨_, rfl, hi, -⟩ | ⟨_, _, rfl, hi, -, hj⟩ := hs <;> simp [*, headerFormat]

section
variable {s : State} (h : Legal s) (acc : Accounts s)
include h acc

/-- The element a phase reads (R99): after GZ_HCRC, whose bytes are not accumulated, comes no header phase. -/
theorem keepsAccounts_execAll {x : Expect} (hx : expected s = some x) {bs : List Bool} {c : Cursor}
    (hf : Follows bs (elementStart x (cursorOf s)) c) {is : List Instr} (hs : Shape x is) :
    KeepsAccounts (execAll is (advanceTo c s)) := by
  by_cases hp : s.phase = .gzHcrc
  · obtain rfl : .gzHcrc = x := by simpa [expected, hp] using hx
    obtain ⟨f, rfl⟩ := hs
    rw [execAll_one]
    exact keepsAccounts_next { acc with header := nofun }
  · have read : Accounts (advanceTo c s) := accounts_advanceTo acc hp (advanceTo_placed h.values.placed hf).2.1
    obtain ⟨i, hi, n, e⟩ := shape_runs_last (h.expected_ne_dSym hx) hs (advanceTo c s)
    rw [e]
    exact (exec_rule (shape_format hs i hi)).keepsAccounts { read with } (headerPhase_of_headerFormat hx hs i hi)

/-! ### The turns -/

theorem keepsAccounts_runElement {x : Expect} (hx : expected s = some x) : KeepsAccounts (runElement x s) := by
  have ways := h.fetch_says hx
  unfold runElement
  generalize fetch x s = r at ways
  cases ways with
  | got is bs c spelled hf =>
    dsimp only
    split
    · exact keepsAccounts_next acc
    · exact keepsAccounts_execAll h acc hx hf spelled.1
  | illegal => exact keepsAccounts_next (accounts_capture acc _ _ _)
  | ended => exact keepsAccounts_next (accounts_capture acc _ _ _)
  | hold => exact keepsAccounts_next acc

/-- The engine's turn (R99). -/
theorem keepsAccounts_engineStep : KeepsAccounts (engineStep s) := by
  unfold engineStep
  split_ifs with hp
  · exact keepsAccounts_emitOrHold (accounts_countCopy acc hp) acc
  · split
    · exact keepsAccounts_next acc
    · exact keepsAccounts_runElement h acc ‹_›

/-- A host command (R650 to R662, R750): but for the resets, START and OutAccept, it cannot change what the accounts
speak of (R166). -/
theorem keepsAccounts_hostCommand {i : Instr} (hi : i.format = .host) (hw : i.wf = true) :
    KeepsAccounts (exec i s) := by
  cases i with
  | start v | softReset v => exact keepsAccounts_next (accounts_writeCtrl acc v)
  | hardReset => exact keepsAccounts_next (accounts_hardwareReset s)
  | outAccept =>
    change KeepsAccounts (execOutAccept s)
    rcases execOutAccept_cases s with e | e <;> rw [e]
    · exact keepsAccounts_next acc
    · exact keepsAccounts_engineStep h acc
  | regWrite | regRead | pushByte | endInput =>
    intro t ht
    exact acc.sameDecoding h.values.ip
      (hostCannotChangeWhatIsDecoded _ s t hw hi (by simp) (by simp) (by simp) (by simp) ht)
  | _ => simp [Instr.format] at hi

theorem keepsAccounts_hostStep (g : Signal) : KeepsAccounts (hostStep g s) := by
  unfold hostStep
  split
  case h_1 i e => exact keepsAccounts_hostCommand h acc (decodeHost_format e) (decodeHost_wf e)
  case h_2 => exact keepsAccounts_next { acc with }
  case h_3 => exact keepsAccounts_refused _
  case h_4 => exact keepsAccounts_refused _

theorem keepsAccounts_runTurn (t : Turn) : KeepsAccounts (runTurn t s) := by
  cases t with
  | engine => exact keepsAccounts_engineStep h acc
  | host g => exact keepsAccounts_hostStep h acc g
  | inFlow b => exact keepsAccounts_next { acc with }

theorem keepsAccounts_step : KeepsAccounts (step s) := by
  unfold step
  split
  · exact keepsAccounts_engineStep h acc
  · rename_i turn rest _
    have later : Accounts { s with agenda := rest } := { acc with }
    exact keepsAccounts_runTurn (h.withLines ..) later turn

end

/-- Settles O55: every turn, the engine's and the host's, keeps the accounts of a legal state. -/
theorem stepKeepsTheAccounts : Obligations.StepKeepsTheAccounts :=
  fun _ t h acc ht => keepsAccounts_step h acc t ht

end Sys2Proof.Machine
end

section
/-! PROOFS. The gzip container (45_gzip_container.md R600 to R620): the meanings of the header's fields and of the
trailer, the CRC-32, and the steps GZ_FIXED and TRAILER from the bytes of the input. -/

namespace Sys2Proof

/-! ### Whole bytes that are there -/

/-- ReadByte (R305) of a byte. -/
theorem readByte_cons (buf b : Byte) (r : List Byte) : readByte ⟨buf, 8, b :: r⟩ = .ok b ⟨buf, 8, r⟩ := rfl

/-- The ten bytes of a fixed header (R201, R600). -/
theorem decodeGzFixed_tenBytes (buf flg m0 m1 m2 m3 xfl os : Byte) (r : List Byte) :
    decodeGzFixed ⟨buf, 8, 0x1F :: 0x8B :: 0x08 :: flg :: m0 :: m1 :: m2 :: m3 :: xfl :: os :: r⟩ =
      .elem [.gzFixed flg (leU32 m0 m1 m2 m3) xfl os] ⟨buf, 8, r⟩ := by
  simp only [decodeGzFixed, readByte_cons, readU32_cons, Read.andThen, ne_eq, not_true_eq_false, or_self, if_false]

/-- The magic is checked once both bytes are read (R600). -/
theorem decodeGzFixed_badMagic (buf : Byte) {id1 id2 : Byte} (r : List Byte) (h : id1 ≠ 0x1F ∨ id2 ≠ 0x8B) :
    decodeGzFixed ⟨buf, 8, id1 :: id2 :: r⟩ = .illegal .invalidMagic .nothing ⟨buf, 8, r⟩ := by
  simp only [decodeGzFixed, readByte_cons, Read.andThen, if_pos h]

/-- The method is checked after the magic (R600). -/
theorem decodeGzFixed_badMethod (buf : Byte) {cm : Byte} (r : List Byte) (h : cm ≠ 8) :
    decodeGzFixed ⟨buf, 8, 0x1F :: 0x8B :: cm :: r⟩ = .illegal .unsupportedMethod (.hdrCm cm) ⟨buf, 8, r⟩ := by
  simp only [decodeGzFixed, readByte_cons, Read.andThen, ne_eq, not_true_eq_false, or_self, if_false, if_pos h]

/-- The eight bytes of a trailer, after its ALIGN (R211, R620). -/
theorem decodeTrailer_eightBytes (buf : Byte) (pos : BitVec 4) (c0 c1 c2 c3 n0 n1 n2 n3 : Byte) (r : List Byte) :
    decodeTrailer ⟨buf, pos, c0 :: c1 :: c2 :: c3 :: n0 :: n1 :: n2 :: n3 :: r⟩ =
      .elem [.gzTrailer (leU32 c0 c1 c2 c3) (leU32 n0 n1 n2 n3)] ⟨buf, 8, r⟩ := by
  simp only [decodeTrailer, alignToByte, readU32_cons, Read.andThen]

end Sys2Proof

namespace Sys2Proof.Machine

/-! ### The meanings of the fields -/

/-- The optional fields that come after a field, each with its bit of FLG and its phase (R202, R608). -/
def fieldsAfter : HeaderField → List (Nat × Phase)
  | .fixed => [(2, .gzXlen), (3, .gzName), (4, .gzComment), (1, .gzHcrc)]
  | .extra => [(3, .gzName), (4, .gzComment), (1, .gzHcrc)]
  | .name => [(4, .gzComment), (1, .gzHcrc)]
  | .comment => [(1, .gzHcrc)]

theorem nextHeaderPhase_eq_find (after : HeaderField) (flg : Byte) :
    nextHeaderPhase after flg =
      (((fieldsAfter after).find? fun p => flg.getLsbD p.1).map Prod.snd).getD .blkHdr := by
  cases after <;> (revert flg; decide)

/-- Settles O4: NextHeaderField takes the first field present of those that come after. -/
theorem headerFieldsComeInOrder : Obligations.HeaderFieldsComeInOrder := by
  intro s
  simp only [nextHeaderField, nextHeaderPhase_eq_find, fieldsAfter, and_self]

/-- The reserved bits of FLG (R600) are not 0 where one of them is set. -/
theorem reservedFlags_ne_zero (flg : Byte) :
    (flg.extractLsb' 5 3 != 0) = (flg.getLsbD 5 || flg.getLsbD 6 || flg.getLsbD 7) := by
  revert flg; decide

/-- Settles O7: the warning is that of the three reserved bits. -/
theorem fixedHeaderIsCaptured : Obligations.FixedHeaderIsCaptured := by
  intro flg mtime xfl os s
  rw [← reservedFlags_ne_zero]
  rfl

/-- Settles O8: one case a branch of R601 to R604. -/
theorem optionalHeaderBytesAreSkipped : Obligations.OptionalHeaderBytesAreSkipped := by
  intro s
  refine ⟨fun xlen present => ?_, rfl, fun b more => ?_, fun b last => ?_, fun b text => ⟨?_, ?_⟩, rfl, rfl⟩
  · exact congrArg Host.Outcome.next (if_neg present)
  · exact congrArg Host.Outcome.next (if_neg fun e => more (sub_eq_zero.mp e))
  · simp [exec, execGzExtra, countExtra, last]
  · exact congrArg Host.Outcome.next (if_neg text)
  · exact congrArg Host.Outcome.next (if_neg text)

theorem bne_eq_decide_ne {n : Nat} (a b : BitVec n) : (a != b) = decide (a ≠ b) := by
  rw [decide_not]; rfl

/-- Settles O9: the low 16 bits of the complemented accumulator are `headerCrc`. -/
theorem headerCrcMismatchOnlyWarns : Obligations.HeaderCrcMismatchOnlyWarns := by
  intro h s
  rw [← BitVec.setWidth_eq_extractLsb' (by decide), ← bne_eq_decide_ne]
  rfl

/-- Settles O6: the eight shifts one by one, and the check values by running them. -/
theorem crcStepIsEightShifts : Obligations.CrcStepIsEightShifts :=
  ⟨fun _ _ => rfl, fun _ => rfl, fun _ => rfl, by decide +kernel, by decide +kernel⟩

/-- Settles O21: the checksum is compared first, then the length. -/
theorem trailerIsComparedInOrder : Obligations.TrailerIsComparedInOrder := by
  intro crc isize s
  have run : exec (.gzTrailer crc isize) s = execGzTrailer crc isize s := rfl
  rw [run, execGzTrailer, crcOut]
  refine ⟨fun sameCrc sameSize => ?_, fun otherCrc => ?_, fun sameCrc otherSize => ?_⟩
  · rw [if_neg (not_not_intro sameCrc), if_neg (not_not_intro sameSize), captureTrailer]
  · rw [if_pos otherCrc, captureTrailer]
  · rw [if_neg (not_not_intro sameCrc), if_pos otherSize, captureTrailer]

/-! ### The steps from the bytes of the input -/

/-- A position reached by whole bytes `p`: they are pulled, and up to GZ_HCRC they are accumulated (R300, R607). -/
theorem advanceTo_bytes {s : State} {p r : List Byte} (h : s.inBytes.drop s.ip = p ++ r) :
    advanceTo ⟨s.bitbuf, 8, r⟩ s = { s with
      bitpos := 8
      ip := s.ip + p.length
      hcrcAcc := if headerCrcPhase s.phase then p.foldl crcStep s.hcrcAcc else s.hcrcAcc } := by
  rw [advanceTo, pulledBytes_eq (c := ⟨s.bitbuf, 8, r⟩) h]

theorem step_eq_engineStep {s : State} (ha : s.agenda = []) : step s = engineStep s := by rw [step, ha]

section
variable {s : State} {x : Expect} (ha : s.agenda = []) (hx : expected s = some x)
include ha hx

/-- An element of one instruction that emits nothing is read, and the step is its meaning (R99). -/
theorem step_of_elem {i : Instr} {c : Cursor} (hd : decode x (cursorOf s) = .elem [i] c) (hi : emits i = false) :
    step s = exec i (advanceTo c s) := by
  have got : fetch x s = .got [i] (advanceTo c s) := by simp only [fetch, hd]
  rw [step_eq_engineStep ha, engineStep_of_got hx got (by simp [hi]), execAll_one]

/-- All the bytes that are left are read, and they are too few: the step holds, and after the end of input it raises
with every byte consumed (R300, R657). -/
theorem step_of_shortBytes (hip : s.ip ≤ s.inBytes.length) {k : Capture}
    (hd : decode x (cursorOf s) = .short k ⟨s.bitbuf, 8, []⟩) :
    (s.inEnd = false → step s = .next s) ∧
      (s.inEnd = true → ∃ t, step s = .next t ∧ t.phase = .error ∧ t.errCode = 7 ∧ t.errDetail = 0 ∧
        t.errOrigin = inflatePhase s.phase ∧ t.ip = s.inBytes.length ∧ t.bitpos = 8 ∧ t.outBytes = s.outBytes) := by
  rw [step_eq_engineStep ha]
  refine ⟨fun he => (held_of_short hx hd he).2, fun he => ⟨_, (raised_of_short hx hd he).2, ?_⟩⟩
  rw [advanceTo_end hip]
  cases k <;> exact ⟨rfl, rfl, rfl, rfl, rfl, rfl, rfl⟩

end

/-! ### Step GZ_FIXED -/

section
variable {s : State} (hp : s.phase = .gzFixed) (h8 : s.bitpos = 8)
include hp h8

theorem advanceTo_gzFixed {p r : List Byte} (h : s.inBytes.drop s.ip = p ++ r) :
    advanceTo ⟨s.bitbuf, 8, r⟩ s = { s with ip := s.ip + p.length, hcrcAcc := p.foldl crcStep s.hcrcAcc } := by
  rw [advanceTo_bytes h, if_pos (by rw [hp]; rfl), ← h8]

/-- A wrong magic or method is rejected with the bytes `p` up to it consumed (R600). -/
theorem step_gzFixed_of_illegal (ha : s.agenda = []) {e : Err} {k : Capture} {p r : List Byte}
    (h : s.inBytes.drop s.ip = p ++ r) (hd : decodeGzFixed ⟨s.bitbuf, 8, p ++ r⟩ = .illegal e k ⟨s.bitbuf, 8, r⟩) :
    step s = .next (raise e (applyCapture k { s with
      ip := s.ip + p.length, hcrcAcc := p.foldl crcStep s.hcrcAcc })) := by
  have hx : expected s = some .gzFixed := by simp [expected, hp]
  have read : decode .gzFixed (cursorOf s) = .illegal e k ⟨s.bitbuf, 8, r⟩ := by rw [cursorOf, h8, h]; exact hd
  rw [step_eq_engineStep ha, (raised_of_illegal hx read).2, advanceTo_gzFixed hp h8 h]

end

/-- Settles O40: what the decoder answers on the ten bytes, on a wrong magic or method, and where they are cut short. -/
theorem fixedHeaderStepReadsTenBytes : Obligations.FixedHeaderStepReadsTenBytes := by
  intro s hv ha hp h8
  have hx : expected s = some .gzFixed := by simp [expected, hp]
  refine ⟨fun flg m0 m1 m2 m3 xfl os rest h => ?_, fun id1 id2 rest h bad => ?_, fun cm rest h bad => ?_,
    fun few begins => ?_⟩
  · have read : decode .gzFixed (cursorOf s) = .elem [.gzFixed flg (leU32 m0 m1 m2 m3) xfl os] ⟨s.bitbuf, 8, rest⟩ := by
      rw [cursorOf, h8, h]; exact decodeGzFixed_tenBytes ..
    rw [step_of_elem ha hx read rfl,
      advanceTo_gzFixed hp h8 (p := [0x1F, 0x8B, 0x08, flg, m0, m1, m2, m3, xfl, os]) h, ← bne_eq_decide_ne]
    rfl
  · exact step_gzFixed_of_illegal hp h8 ha (p := [id1, id2]) h (decodeGzFixed_badMagic _ rest bad)
  · exact step_gzFixed_of_illegal hp h8 ha (p := [0x1F, 0x8B, cm]) h (decodeGzFixed_badMethod _ rest bad)
  · have read : decode .gzFixed (cursorOf s) = .short (gzFixedRead (s.inBytes.drop s.ip)) ⟨s.bitbuf, 8, []⟩ := by
      rw [cursorOf, h8]; exact decodeGzFixed_short _ few begins
    obtain ⟨held, ended⟩ := step_of_shortBytes ha hx hv.ip read
    refine ⟨held, fun he => ?_⟩
    obtain ⟨t, run, phase, code, detail, origin, ip, -, out⟩ := ended he
    exact ⟨t, run, phase, code, detail, by rw [origin, hp]; rfl, ip, out⟩

/-! ### Step TRAILER -/

/-- Settles O41: the eight bytes are one element, whose meaning is O21's; seven or fewer are read whatever they show. -/
theorem trailerStepReadsEightBytes : Obligations.TrailerStepReadsEightBytes := by
  intro s hv ha hp
  have hx : expected s = some .trailer := by simp [expected, hp]
  refine ⟨fun c0 c1 c2 c3 n0 n1 n2 n3 rest h => ?_, fun few => ?_⟩
  · have read : decode .trailer (cursorOf s) =
        .elem [.gzTrailer (leU32 c0 c1 c2 c3) (leU32 n0 n1 n2 n3)] ⟨s.bitbuf, 8, rest⟩ := by
      rw [cursorOf, h]; exact decodeTrailer_eightBytes ..
    have run := step_of_elem ha hx read rfl
    rw [advanceTo_bytes (p := [c0, c1, c2, c3, n0, n1, n2, n3]) h, if_neg (by rw [hp]; decide)] at run
    obtain ⟨same, otherCrc, otherSize⟩ := trailerIsComparedInOrder (leU32 c0 c1 c2 c3) (leU32 n0 n1 n2 n3)
      { s with ip := s.ip + 8, bitpos := 8 }
    exact ⟨fun hc => run.trans (otherCrc hc), fun hc hn => run.trans (otherSize hc hn),
      fun hc hn => run.trans (same hc hn)⟩
  · obtain ⟨held, ended⟩ := step_of_shortBytes ha hx hv.ip (decodeTrailer_short s.bitbuf s.bitpos few)
    refine ⟨held, fun he => ?_⟩
    obtain ⟨t, run, phase, code, detail, origin, consumed⟩ := ended he
    exact ⟨t, run, phase, code, detail, by rw [origin, hp]; rfl, consumed⟩

end Sys2Proof.Machine
end

section
/-! PROOFS. The register block (46_host_interface.md R651 to R654): the writes of CTRL and what a register reads. -/

namespace Sys2Proof.Machine

theorem busy_eq_not_restPhase (s : State) : busy s = !restPhase s.phase := by
  unfold busy restPhase; cases s.phase <;> rfl

/-! ### Writes -/

/-- Start (R653) by the phase it meets: it opens a session or is ignored (R760). -/
theorem startCommand_of_rest {s : State} (h : restPhase s.phase = true) : startCommand s = startSession s :=
  if_neg (by simp [busy_eq_not_restPhase, h])

theorem startCommand_of_running {s : State} (h : restPhase s.phase = false) : startCommand s = s :=
  if_pos (by simp [busy_eq_not_restPhase, h])

/-- A write of CTRL with START alone (R652). -/
theorem writeCtrl_start {v : Word} (start : v.getLsbD 0 = true) (noReset : v.getLsbD 1 = false) (s : State) :
    writeCtrl v s = startCommand (writeCtrlFields v s) := by
  simp only [writeCtrl, start, noReset, Bool.false_eq_true, if_false, if_true]

/-- A write of CTRL with SOFT_RESET (R652, R654): the phase is IDLE, so START in the same write is not ignored. -/
theorem writeCtrl_softReset {v : Word} (reset : v.getLsbD 1 = true) (s : State) :
    writeCtrl v s = if v.getLsbD 0 then startSession (resetSession (writeCtrlFields v s))
      else resetSession (writeCtrlFields v s) := by
  simp only [writeCtrl, reset, if_true, startCommand_of_rest (s := resetSession _) rfl]

/-- Settles O22: the write's START, by the phase. -/
theorem startOpensASession : Obligations.StartOpensASession := by
  intro v s start noReset
  have run : exec (.start v) s = .next (startCommand (writeCtrlFields v s)) :=
    congrArg _ (writeCtrl_start start noReset s)
  refine ⟨fun rest => run.trans ?_, fun running => run.trans ?_⟩
  · exact congrArg _ (startCommand_of_rest rest)
  · exact congrArg _ (startCommand_of_running running)

/-- Settles O23: the write's two commands, by START. -/
theorem softResetActsInEveryPhase : Obligations.SoftResetActsInEveryPhase := by
  intro v s reset
  refine (congrArg Host.Outcome.next (writeCtrl_softReset reset s)).trans ?_
  cases v.getLsbD 0 <;> rfl

/-- Settles O24: by the offset. -/
theorem otherRegisterWritesAreIgnored : Obligations.OtherRegisterWritesAreIgnored := by
  intro off v s
  have aligned (h : off.toNat % 4 = 0) : exec (.regWrite off v) s = .next (writeRegister off v s) :=
    if_pos (beq_iff_eq.mpr h)
  refine ⟨fun h0 noStart noReset => ?_, fun other h => ?_, fun misaligned => if_neg ?_⟩
  · rw [aligned (by simp [h0]), writeRegister, if_pos h0, writeCtrl_fieldsOnly noStart noReset]; rfl
  · rw [aligned h, writeRegister, if_neg other]
  · simpa [alignedOffset] using misaligned

/-! ### Reads -/

/-- Outside a session every register is exact (R164). -/
theorem readIsDrawn_of_rest {s : State} (h : restPhase s.phase = true) (off : BitVec 6) :
    readIsDrawn off s = false := by
  simp [readIsDrawn, busy_eq_not_restPhase, h]

theorem readRegister_exact {off : BitVec 6} {s : State} (h : readIsDrawn off s = false) (d : Word) :
    readRegister off d s = readExact off s := by
  simp only [readRegister, h, Bool.false_eq_true, if_false]

theorem readRegister_ctrl (d : Word) (s : State) : readRegister 0 d s = ctrlWord s :=
  readRegister_exact (by simp [readIsDrawn]) d

/-- A reserved offset reads 0 (R89), also while a session runs. -/
theorem readRegister_reserved {off : BitVec 6} (h : 0x2C ≤ off.toNat) (d : Word) (s : State) :
    readRegister off d s = 0 := by
  have undrawn : readIsDrawn off s = false := by
    have : ¬ off.toNat ≤ 0x28 := by omega
    simp [readIsDrawn, this]
  rw [readRegister_exact undrawn, readExact]
  split
  case h_12 => rfl
  all_goals omega

/-- A word with the bits of `m` taken from another agrees with it in the other bits. -/
theorem drawn_and_not_mask (w d m : Word) : (w &&& ~~~m ||| d &&& m) &&& ~~~m = w &&& ~~~m := by
  ext i
  simp only [BitVec.getElem_and, BitVec.getElem_or, BitVec.getElem_not]
  cases m[i] <;> simp

/-- STATUS reads exactly in every bit that R164 does not leave open. -/
theorem readRegister_status (d : Word) (s : State) :
    readRegister 0x04 d s &&& ~~~statusDrawMask = statusWord s &&& ~~~statusDrawMask := by
  cases h : readIsDrawn 0x04 s with
  | false => rw [readRegister_exact h]; rfl
  | true => simp only [readRegister, h, if_true, drawn_and_not_mask]

/-- The fields of a register may be put together from either end. -/
theorem toNat_append_append {k m n : Nat} (x : BitVec k) (y : BitVec m) (z : BitVec n) :
    (x ++ y ++ z).toNat = (x ++ (y ++ z)).toNat := by
  rw [BitVec.append_assoc, BitVec.toNat_cast]

theorem ctrlWord_eq (s : State) :
    ctrlWord s = 0#28 ++ (BitVec.ofBool s.ctrlIrqEn ++ (BitVec.ofBool s.ctrlRaw ++ 0#2)) :=
  BitVec.eq_of_toNat_eq ((toNat_append_append ..).trans (toNat_append_append ..))

theorem errWord_eq (s : State) :
    errWord s = 0#15 ++ (BitVec.ofBool s.errOrigin ++ (s.errDetail ++ (0#4 ++ s.errCode))) :=
  BitVec.eq_of_toNat_eq ((toNat_append_append ..).trans ((toNat_append_append ..).trans (toNat_append_append ..)))

theorem hdr0Word_eq (s : State) : hdr0Word s = s.hdrOs ++ (s.hdrXfl ++ (s.hdrFlg ++ s.hdrCm)) :=
  BitVec.eq_of_toNat_eq ((toNat_append_append ..).trans (toNat_append_append ..))

/-- Settles O25: the read data is `readRegister` of a free value, by the offset. -/
theorem registerReadsAnswerTheRegister : Obligations.RegisterReadsAnswerTheRegister := by
  intro off s
  refine ⟨fun misaligned => if_neg (by simpa [alignedOffset] using misaligned), fun aligned =>
    ⟨_, _, if_pos (beq_iff_eq.mpr aligned), ?_, ?_, fun h => readRegister_reserved h _ s, fun rest => ?_⟩⟩
  · rintro rfl
    rw [readRegister_ctrl, ctrlWord_eq]
  · rintro rfl
    exact readRegister_status _ s
  · have undrawn := readIsDrawn_of_rest rest off
    rw [readRegister_exact undrawn, undrawn]
    refine ⟨rfl, ?_, ?err, ?_, ?_, ?_, ?_, ?consumed, ?hdr0, ?_, ?_⟩ <;> rintro rfl
    case err => exact errWord_eq s
    case consumed => exact BitVec.toNat_ofNat ..
    case hdr0 => exact hdr0Word_eq s
    all_goals rfl

end Sys2Proof.Machine
end

section
/-! PROOFS. The elements that emit (44_lz77_window.md R551), from any position: a fetch answers a literal or a stored
byte in SYMBOL and STORED_COPY only. -/

namespace Sys2Proof

open Machine (emits emits_cases)

/-- No instruction that is read here emits. -/
def Silent (d : Decoded) : Prop := ∀ is c, d = .elem is c → is.any emits = false

theorem silent_elem {is : List Instr} (h : is.any emits = false) (c : Cursor) : Silent (.elem is c) := by
  rintro _ _ ⟨⟩; exact h

theorem silent_illegal (e : Err) (k : Capture) (c : Cursor) : Silent (.illegal e k c) := nofun

theorem Silent.andThen {α : Type} {f : α → Cursor → Decoded} (hf : ∀ a c, Silent (f a c)) (r : Read α)
    (k : Capture) : Silent (r.andThen k f) := by
  cases r with
  | ok a c => exact hf a c
  | short | bad => exact nofun

theorem silent_decodeGzFixed (c : Cursor) : Silent (decodeGzFixed c) := by
  refine .andThen (fun id1 c => .andThen (fun id2 c => ?_) _ _) _ _
  split
  · exact silent_illegal _ _ _
  refine .andThen (fun cm c => ?_) _ _
  split
  · exact silent_illegal _ _ _
  exact .andThen (fun flg c => .andThen (fun mtime c => .andThen (fun xfl c => .andThen (fun os c =>
    silent_elem rfl c) _ _) _ _) _ _) _ _

theorem silent_decodeCllens (n : Nat) (got : List (BitVec 3)) (c : Cursor) : Silent (decodeCllens n got c) := by
  induction n generalizing got c with
  | zero => exact silent_elem rfl c
  | succ n ih => exact .andThen (fun l c => ih _ c) _ _

theorem emits_of_clSym {i : Instr} (h : i.format = .clSym) : emits i = false := by
  refine Bool.eq_false_iff.mpr fun he => ?_
  rcases emits_cases he with ⟨b, rfl⟩ | ⟨b, rfl⟩ <;> cases h

theorem silent_decodeClSym (cl : List Nat) (c : Cursor) : Silent (decodeClSym cl c) := by
  refine .andThen (fun sym c => ?_) _ _
  split
  · exact silent_illegal _ _ _
  rename_i n f found
  obtain ⟨s, -, row, -⟩ := symbol_of_row found
  refine .andThen (fun x c => silent_elem ?_ c) _ _
  simp [emits_of_clSym (getElem?_clInstrs row x.toNat).1]

/-- The elements that are no stored byte and no symbol of a compressed block emit nothing. -/
theorem silent_decode {x : Expect} (stored : x ≠ .storedCopy) (literal : ∀ ll d, x ≠ .llSym ll d)
    (distance : ∀ d, x ≠ .dSym d) (c : Cursor) : Silent (decode x c) := by
  cases x with
  | gzFixed => exact silent_decodeGzFixed c
  | storedLen | trailer => exact .andThen (fun _ c => .andThen (fun _ c => silent_elem rfl c) _ _) _ _
  | dynHdr =>
    exact .andThen (fun _ c => .andThen (fun _ c => .andThen (fun _ c => silent_elem rfl c) _ _) _ _) _ _
  | dynCllens n => exact silent_decodeCllens n [] c
  | clSym cl => exact silent_decodeClSym cl c
  | blkHdr => exact .andThen (fun v c => silent_elem (by revert v; decide) c) _ _
  | storedCopy => exact absurd rfl stored
  | llSym ll d => exact absurd rfl (literal ll d)
  | dSym d => exact absurd rfl (distance d)
  | _ => exact .andThen (fun _ c => silent_elem rfl c) _ _

end Sys2Proof

namespace Sys2Proof.Machine

theorem phase_of_expected_dSym {s : State} {d : List Nat} (h : expected s = some (.dSym d)) : s.phase = .symbol := by
  unfold expected at h
  cases hp : s.phase <;> simp [hp] at h ⊢

/-- An element that emits is read in STORED_COPY or in SYMBOL. -/
theorem phase_of_emits {s : State} {x : Expect} {is : List Instr} {c c' : Cursor} (hx : expected s = some x)
    (hd : decode x c = .elem is c') (he : is.any emits = true) : s.phase = .storedCopy ∨ s.phase = .symbol := by
  by_contra other
  obtain ⟨stored, symbol⟩ := not_or.mp other
  have silent : is.any emits = false := by
    refine silent_decode ?_ (fun ll d => ?_) (fun d => ?_) c is c' hd
    · rintro rfl; exact stored (phase_of_expected_storedCopy hx)
    · rintro rfl; exact symbol (phase_of_expected_llSym hx)
    · rintro rfl; exact symbol (phase_of_expected_dSym hx)
  rw [silent] at he
  cases he

end Sys2Proof.Machine
end

section
/-! PROOFS. The ports (46_host_interface.md R655 to R662): when a byte is taken, and which byte the output port
offers. -/

namespace Sys2Proof.Machine

/-! ### The input port -/

/-- in_ready is 0 outside a session and after the end of input (R661). -/
theorem inReady_eq_false {s : State} (h : restPhase s.phase = true ∨ s.inEnd = true) : inReady s = false := by
  rcases h with h | h <;> simp [inReady, busy_eq_not_restPhase, h]

/-- Settles O26: each transfer by whether it is enabled. -/
theorem inputPortTakesBytesAndTheEndOfInput : Obligations.InputPortTakesBytesAndTheEndOfInput := by
  intro b s
  refine ⟨fun ready => ?_, fun notReady => ?_, inReady_eq_false, fun running more held => ?_, fun running more => ?_,
    fun notEnabled => ?_⟩
  · exact congrArg _ (if_pos ready)
  · exact congrArg _ (if_neg (by simp [notReady]))
  · simp [inReady, busy_eq_not_restPhase, running, more, held]
  · exact congrArg _ (if_pos (by simp [busy_eq_not_restPhase, running, more]))
  · refine congrArg _ (if_neg ?_)
    rcases notEnabled with rest | ended
    · simp [busy_eq_not_restPhase, rest]
    · simp [ended]

/-! ### The output port -/

/-- The port offers `b` from `s`, and `u` is the state its Emit is made at (R662): in COPY, or where the element at the
position is a literal or a stored byte. -/
inductive Offers (s : State) : Byte → State → Prop
  | copy (hp : s.phase = .copy) : Offers s (copyByte s) (countCopy s)
  | literal {x : Expect} {b : Byte} {c : Cursor} (hx : expected s = some x)
      (hd : decode x (cursorOf s) = .elem [.lit b] c) : Offers s b (advanceTo c s)
  | stored {x : Expect} {b : Byte} {c : Cursor} (hx : expected s = some x)
      (hd : decode x (cursorOf s) = .elem [.storedCopy b] c) : Offers s b (countStored (advanceTo c s))

theorem offered_eq_some_iff {s u : State} {b : Byte} : offered s = some (b, u) ↔ Offers s b u := by
  constructor
  · intro h
    unfold offered at h
    split at h
    case h_1 hp => cases h; exact .copy hp
    case h_4 => cases h
    all_goals
      split at h <;> cases h
      all_goals
        rename_i hf
        obtain ⟨x, hx, hf⟩ := Option.map_eq_some_iff.mp hf
        obtain ⟨c, hd, rfl⟩ := fetch_got hf
      · exact .stored hx hd
      · exact .literal hx hd
  · rintro (hp | ⟨hx, hd⟩ | ⟨hx, hd⟩)
    · simp [offered, hp]
    all_goals rcases phase_of_emits hx hd rfl with hp | hp <;> simp [offered, hp, hx, fetch, hd]

theorem Offers.outBytes {s u : State} {b : Byte} (h : Offers s b u) : u.outBytes = s.outBytes := by
  cases h with
  | copy | literal => rfl
  | stored => exact countStored_outBytes _

/-- The byte offered does not depend on `out_ready`. -/
theorem Offers.withOutReady {s u : State} {b : Byte} (h : Offers s b u) (r : Bool) :
    ∃ v, Offers { s with outReady := r } b v := by
  cases h with
  | copy hp => exact ⟨_, .copy (s := { s with outReady := r }) hp⟩
  | literal hx hd => exact ⟨_, .literal (s := { s with outReady := r }) hx hd⟩
  | stored hx hd => exact ⟨_, .stored (s := { s with outReady := r }) hx hd⟩

theorem offers_withOutReady_iff {s : State} {b : Byte} {r : Bool} :
    (∃ v, Offers { s with outReady := r } b v) ↔ ∃ u, Offers s b u :=
  ⟨fun ⟨_, h⟩ => h.withOutReady s.outReady, fun ⟨_, h⟩ => h.withOutReady r⟩

theorem offeredByte_iff {s : State} {b : Byte} : (offered s).map Prod.fst = some b ↔ ∃ u, Offers s b u := by
  simp only [Option.map_eq_some_iff, Prod.exists, offered_eq_some_iff, exists_and_right, exists_eq_right]

theorem outValid_iff {s : State} : outValid s = true ↔ ∃ b u, Offers s b u := by
  simp only [outValid, Option.isSome_iff_exists, Prod.exists, offered_eq_some_iff]

/-- A turn that meets no offered byte delivers none. -/
theorem outBytes_of_not_offers {s t : State} (h : Legal s) (noOffer : ∀ b u, ¬ Offers s b u)
    (run : engineStep s = .next t) : t.outBytes = s.outBytes := by
  unfold engineStep at run
  split_ifs at run with hp
  · exact absurd (.copy hp) (noOffer _ _)
  split at run
  · cases run; rfl
  rename_i x hx
  have ways := h.fetch_says hx
  unfold runElement at run
  cases hf : fetch x s <;> rw [hf] at ways run
  case got is u =>
    have shape : Shape x is := by cases ways with | got _ _ _ spelled => exact spelled.1
    obtain ⟨c, hd, rfl⟩ := fetch_got hf
    have silent : is.any emits = false := by
      refine Bool.eq_false_iff.mpr fun emitting => ?_
      rcases shape_emits shape emitting with ⟨-, b, rfl⟩ | ⟨-, b, rfl⟩
      · exact noOffer _ _ (.stored hx hd)
      · exact noOffer _ _ (.literal hx hd)
    simp only [silent, Bool.false_and, Bool.false_eq_true, if_false] at run
    exact execAll_outBytes (s := advanceTo c s) (shape_format shape) silent run
  case raised u =>
    cases run
    cases ways with
    | illegal | ended => exact applyCapture_outBytes _ _
  case hold => cases run; rfl
  case bad => cases run

/-- The byte offered is the one the engine's turn would deliver, were `out_ready` 1 (R662). -/
theorem offers_iff_delivers {s : State} (h : Legal s) (ready : s.outReady = true) (b : Byte) :
    (∃ u, Offers s b u) ↔ ∃ t, engineStep s = .next t ∧ t.outBytes = s.outBytes ++ [b] := by
  constructor
  · rintro ⟨u, offers⟩
    exact ⟨_, engineStep_of_offered (offered_eq_some_iff.mpr offers) ready, by rw [emit_outBytes, offers.outBytes]⟩
  · rintro ⟨t, run, grows⟩
    by_cases offering : ∃ b u, Offers s b u
    · obtain ⟨b', u, offers⟩ := offering
      obtain rfl : emit b' u = t :=
        Host.Outcome.next.inj ((engineStep_of_offered (offered_eq_some_iff.mpr offers) ready).symm.trans run)
      obtain rfl : b' = b := by simpa [offers.outBytes] using grows
      exact ⟨u, offers⟩
    · have same := outBytes_of_not_offers h (fun b u offers => offering ⟨b, u, offers⟩) run
      simp [same] at grows

theorem execOutAccept_of_offered {s u : State} {b : Byte} (h : offered s = some (b, u)) (ready : s.outReady = true) :
    execOutAccept s = .next (emit b u) := by
  simp only [execOutAccept, h, ready, if_true]

/-- OutAccept is enabled while out_valid and out_ready are 1. -/
theorem execOutAccept_of_notEnabled {s : State} (h : s.outReady = false ∨ outValid s = false) :
    execOutAccept s = .next s := by
  rcases h with h | h
  · unfold execOutAccept
    split <;> simp [h]
  · simp only [execOutAccept, Option.not_isSome_iff_eq_none.mp (Bool.eq_false_iff.mp h)]

/-- Settles O27: each clause by what the port offers. -/
theorem outAcceptCompletesTheEmittingStep : Obligations.OutAcceptCompletesTheEmittingStep := by
  intro s
  refine ⟨fun ready valid => ?_, execOutAccept_of_notEnabled, ?_, fun legal b => ?_, fun r => ?_⟩
  · obtain ⟨b, u, offers⟩ := outValid_iff.mp valid
    have offer := offered_eq_some_iff.mpr offers
    exact ⟨b, u, _, offer, rfl, by rw [emit_outBytes, offers.outBytes], execOutAccept_of_offered offer ready,
      engineStep_of_offered offer ready⟩
  · rw [outValid_iff]
    constructor
    · rintro ⟨b, u, hp | ⟨hx, hd⟩ | ⟨hx, hd⟩⟩
      · exact .inl hp
      · exact .inr ⟨_, _, _, hx, .inl hd⟩
      · exact .inr ⟨_, _, _, hx, .inr hd⟩
    · rintro (hp | ⟨x, b, c, hx, hd | hd⟩)
      · exact ⟨_, _, .copy hp⟩
      · exact ⟨_, _, .literal hx hd⟩
      · exact ⟨_, _, .stored hx hd⟩
  · rw [offeredByte_iff, ← offers_withOutReady_iff (r := true)]
    exact offers_iff_delivers (legal.withLines s.ctrlRaw s.ctrlIrqEn true s.inFlow s.regRdata s.draws s.agenda) rfl b
  · refine Option.ext fun b => ?_
    rw [offeredByte_iff, offeredByte_iff, offers_withOutReady_iff]

end Sys2Proof.Machine
end

section
/-! PROOFS. Errors (60_exceptions.md R700 to R710): what raise records, that no turn but a START, a SOFT_RESET or a
hardware reset leaves ERROR, and the level of the interrupt output. -/

namespace Sys2Proof.Machine

/-! ### No turn leaves a rest phase on its own -/

/-- `t` is `s` but for CTRL, the read data, the host's lines and the model's own bookkeeping: nothing of the session has
changed. -/
def SameSession (s t : State) : Prop :=
  t = { s with
    ctrlRaw := t.ctrlRaw
    ctrlIrqEn := t.ctrlIrqEn
    outReady := t.outReady
    regRdata := t.regRdata
    inFlow := t.inFlow
    draws := t.draws
    agenda := t.agenda }

theorem sameSession_withLines (s : State) (raw irqEn rdy flow : Bool) (rdata : Word) (n : Nat) (turns : List Turn) :
    SameSession s { s with ctrlRaw := raw, ctrlIrqEn := irqEn, outReady := rdy, inFlow := flow, regRdata := rdata,
                           draws := n, agenda := turns } := rfl

theorem SameSession.refl (s : State) : SameSession s s := rfl

/-- The transfers that open or end a session from a rest phase (R709). -/
def WayBack (d : HostDecoded) : Prop :=
  d = .command .hardReset ∨ (∃ v, d = .command (.start v)) ∨ ∃ v, d = .command (.softReset v)

section
variable {s t : State} (rest : restPhase s.phase = true)
include rest

/-- No step exists in IDLE, DONE and ERROR (R99). -/
theorem engineStep_of_rest : engineStep s = .next s := by
  have notCopy : s.phase ≠ .copy := fun hp => by simp [hp, restPhase] at rest
  simp only [engineStep, if_neg notCopy, expected_rest.mpr (.inl rest)]

/-- No output is offered outside a session (R662). -/
theorem outValid_eq_false_of_rest : outValid s = false := by
  unfold outValid offered
  cases hp : s.phase with
  | idle | done | error => rfl
  | _ => simp [hp, restPhase] at rest

/-- In a rest phase a host command changes nothing of the session, unless it is one of the three ways back (R709). -/
theorem hostCommand_of_rest {i : Instr} (format : i.format = .host) (wf : i.wf = true) (run : exec i s = .next t) :
    SameSession s t ∨ WayBack (.command i) := by
  cases i with
  | hardReset => exact .inr (.inl rfl)
  | start v => exact .inr (.inr (.inl ⟨v, rfl⟩))
  | softReset v => exact .inr (.inr (.inr ⟨v, rfl⟩))
  | regWrite off v =>
    obtain ⟨ctrl, other, -⟩ := otherRegisterWritesAreIgnored off v s
    obtain ⟨aligned, noCommand⟩ := Bool.and_eq_true_iff.mp wf
    by_cases h0 : off = 0
    · obtain ⟨noStart, noReset⟩ : v.getLsbD 0 = false ∧ v.getLsbD 1 = false := by simpa [h0] using noCommand
      cases (ctrl h0 noStart noReset).symm.trans run
      exact .inl (sameSession_withLines ..)
    · cases (other h0 (beq_iff_eq.mp aligned)).symm.trans run
      exact .inl (.refl s)
  | regRead off =>
    obtain ⟨-, aligned⟩ := registerReadsAnswerTheRegister off s
    obtain ⟨d, n, read, -⟩ := aligned (beq_iff_eq.mp wf)
    cases read.symm.trans run
    exact .inl (sameSession_withLines ..)
  | pushByte b =>
    obtain ⟨-, notReady, -⟩ := inputPortTakesBytesAndTheEndOfInput b s
    cases (notReady (inReady_eq_false (.inl rest))).symm.trans run
    exact .inl (.refl s)
  | endInput =>
    obtain ⟨-, -, -, -, -, notRunning⟩ := inputPortTakesBytesAndTheEndOfInput 0 s
    cases (notRunning (.inl rest)).symm.trans run
    exact .inl (.refl s)
  | outAccept =>
    cases (execOutAccept_of_notEnabled (.inr (outValid_eq_false_of_rest rest))).symm.trans run
    exact .inl (.refl s)
  | _ => simp [Instr.format] at format

/-- A host's turn in a rest phase: its command, or a line of its own. -/
theorem hostStep_of_rest {g : Signal} (run : hostStep g s = .next t) :
    SameSession s t ∨ WayBack (decodeHost g) := by
  unfold hostStep at run
  cases e : decodeHost g <;> rw [e] at run
  case command i => exact hostCommand_of_rest rest (decodeHost_format e) (decodeHost_wf e) run
  case outLevel b => cases run; exact .inl (sameSession_withLines ..)
  case badAccess | elsewhere => cases run

/-- A step from a rest phase keeps the session, unless its turn is one of the three ways back (R706, R709). -/
theorem step_of_rest (run : step s = .next t) :
    SameSession s t ∨ ∃ g turns, s.agenda = .host g :: turns ∧ WayBack (decodeHost g) := by
  unfold step at run
  cases ha : s.agenda <;> rw [ha] at run
  case nil =>
    cases (engineStep_of_rest rest).symm.trans run
    exact .inl (.refl s)
  case cons turn turns =>
    cases turn with
    | engine =>
      cases (engineStep_of_rest (s := { s with agenda := turns }) rest).symm.trans run
      exact .inl (sameSession_withLines ..)
    | inFlow b => cases run; exact .inl (sameSession_withLines ..)
    | host g =>
      exact (hostStep_of_rest (s := { s with agenda := turns }) rest run).imp id fun back => ⟨g, turns, rfl, back⟩

end

/-- Settles O34: ERROR is a rest phase, and the fields named are among those SameSession keeps. -/
theorem errorIsTerminal : Obligations.ErrorIsTerminal := by
  intro s inError
  have rest : restPhase s.phase = true := by rw [inError]; rfl
  refine ⟨engineStep_of_rest rest, inReady_eq_false (.inl rest), outValid_eq_false_of_rest rest, fun t run => ?_⟩
  refine (step_of_rest rest run).imp_left fun same => ?_
  unfold SameSession at same
  rw [same]
  exact ⟨inError, rfl, rfl, rfl, rfl, rfl, rfl⟩

/-! ### Raising -/

theorem inflatePhase_eq_decide (p : Phase) :
    inflatePhase p = decide (p = .blkHdr ∨ p = .storedLen ∨ p = .storedCopy ∨ p = .dynHdr ∨ p = .dynCllens ∨
      p = .dynLens ∨ p = .symbol ∨ p = .copy) := by
  cases p <;> rfl

/-- Only CorruptBlock has a detail (R701). -/
theorem errorDetail_eq_zero {e : Err} (h : ∀ d, e ≠ .corruptBlock d) : errorDetail e = 0 := by
  cases e with
  | corruptBlock d => exact absurd rfl (h d)
  | _ => rfl

/-- Settles O1: the origin by the phase, and the numbers row by row. -/
theorem raiseRecordsTheError : Obligations.RaiseRecordsTheError := by
  refine ⟨fun e s => ?_, rfl, rfl, fun _ => rfl, rfl, rfl, rfl, rfl, fun _ => rfl, fun _ => errorDetail_eq_zero, ?_⟩
  · rw [raise, inflatePhase_eq_decide]
  · decide

/-! ### The interrupt output -/

theorem irq_iff (s : State) : irq s = true ↔ s.ctrlIrqEn = true ∧ (s.phase = .done ∨ s.phase = .error) := by
  simp [irq_eq]

theorem irq_of_disabled {s : State} (h : s.ctrlIrqEn = false) : irq s = false := by simp [irq_eq, h]

theorem irq_of_running {s : State} (h : restPhase s.phase = false) : irq s = false := by
  refine Bool.eq_false_iff.mpr fun high => ?_
  obtain ⟨-, hp | hp⟩ := (irq_iff s).mp high <;> simp [hp, restPhase] at h

theorem irq_resetSession (s : State) : irq (resetSession s) = false := by simp [irq_eq]

theorem irq_startSession (s : State) : irq (startSession s) = false :=
  irq_of_running (by cases hr : s.ctrlRaw <;> simp [hr, startPhase, restPhase])

/-- A START opens a session, or one is running already (R653). -/
theorem irq_startCommand (s : State) : irq (startCommand s) = false := by
  cases h : restPhase s.phase
  · rw [startCommand_of_running h]; exact irq_of_running h
  · rw [startCommand_of_rest h]; exact irq_startSession s

@[simp] theorem startCommand_ctrlIrqEn (s : State) : (startCommand s).ctrlIrqEn = s.ctrlIrqEn := by
  unfold startCommand
  split <;> rfl

theorem writeCtrl_ctrlIrqEn (v : Word) (s : State) : (writeCtrl v s).ctrlIrqEn = v.getLsbD 3 := by
  simp only [writeCtrl]
  split_ifs <;> simp

/-- Settles O35: one case a way of R710. -/
theorem interruptIsALevel : Obligations.InterruptIsALevel := by
  refine fun s => ⟨irq_iff s, fun v t wf run => ?_, fun v t reset run => ?_, fun t run => ?_, fun v t disabled run => ?_⟩
  · obtain ⟨start, noReset⟩ : v.getLsbD 0 = true ∧ v.getLsbD 1 = false := by simpa [Instr.wf] using wf
    obtain rfl : writeCtrl v s = t := Host.Outcome.next.inj run
    rw [writeCtrl_start start noReset]
    exact irq_startCommand _
  · obtain rfl : writeCtrl v s = t := Host.Outcome.next.inj run
    rw [writeCtrl_softReset reset]
    split_ifs
    · exact irq_startSession _
    · exact irq_resetSession _
  · obtain rfl : hardwareReset s = t := Host.Outcome.next.inj run
    exact irq_of_disabled rfl
  · obtain rfl : writeCtrl v s = t := Host.Outcome.next.inj run
    exact irq_of_disabled ((writeCtrl_ctrlIrqEn v s).trans disabled)

end Sys2Proof.Machine
end

section
/-! PROOFS. Reset (70_reset_and_hazards.md R750 to R753), and the end of every session whose input has ended and whose
output is taken (R768): the steps left are bounded by a measure that every step of a running session lowers. -/

namespace Sys2Proof.Machine

/-! ### What a step leaves of the input -/

/-- Where the position is kept or aligned, no bits come back (R304). -/
theorem bits_length_le_of_bitpos {c c' : Cursor} (buffer : c'.bitbuf = c.bitbuf) (rest : c'.rest = c.rest)
    (kept : c'.bitpos = c.bitpos ∨ c'.bitpos = 8) : c'.bits.length ≤ c.bits.length := by
  rcases kept with kept | aligned
  · simp [Cursor.bits, buffer, rest, kept]
  · simp [Cursor.bits, rest, aligned]

theorem elementStart_bits_length_le (x : Expect) (c : Cursor) : (elementStart x c).bits.length ≤ c.bits.length := by
  refine bits_length_le_of_bitpos (elementStart_bitbuf x c) (elementStart_rest x c) ?_
  cases x with
  | storedLen | trailer => exact .inr rfl
  | _ => exact .inl rfl

theorem endOfBlock_bitpos_cases (s : State) : (endOfBlock s).bitpos = s.bitpos ∨ (endOfBlock s).bitpos = 8 := by
  rw [endOfBlock_bitpos]
  split
  · exact .inr rfl
  · exact .inl rfl

theorem countStored_bitpos_cases (s : State) : (countStored s).bitpos = s.bitpos ∨ (countStored s).bitpos = 8 := by
  unfold countStored
  split
  · exact endOfBlock_bitpos_cases _
  · exact .inl rfl

/-- An instruction leaves the position as it is, or aligns it at the end of a raw session (R357). -/
theorem exec_bitpos_cases {i : Instr} (stream : i.format ≠ .host) {s t : State} (run : exec i s = .next t) :
    t.bitpos = s.bitpos ∨ t.bitpos = 8 := by
  have frame := (Frame.of_rule (exec_rule stream) run).bitpos
  cases i with
  | eob =>
    obtain rfl : endOfBlock s = t := Host.Outcome.next.inj run
    exact endOfBlock_bitpos_cases s
  | storedLen len nlen =>
    cases run
    split_ifs
    · exact .inl rfl
    · exact endOfBlock_bitpos_cases s
    · exact .inl rfl
  | storedCopy b =>
    change emitOrHold b (countStored s) s = .next t at run
    unfold emitOrHold at run
    split at run <;> cases run
    · exact countStored_bitpos_cases s
    · exact .inl rfl
  | _ => exact .inl (frame nofun nofun)

/-- What decides who moves next and whether a step holds is the same: the agenda, `out_ready` and the end of input (R99,
R660, R662). -/
structure SameLines (s t : State) : Prop where
  agenda : t.agenda = s.agenda
  outReady : t.outReady = s.outReady
  inEnd : t.inEnd = s.inEnd

/-- The instructions of an element put no bits back, and leave what decides the holds. -/
theorem execAll_keeps_lines_and_bits {x : Expect} {is : List Instr} (whole : ∀ l, x ≠ .dSym l) (shape : Shape x is)
    {s t : State} (run : execAll is s = .next t) :
    SameLines s t ∧ (cursorOf t).bits.length ≤ (cursorOf s).bits.length := by
  obtain ⟨i, mem, n, last⟩ := shape_runs_last whole shape s
  rw [last] at run
  have stream := shape_format shape i mem
  obtain ⟨-, -, -, ip, buffer, -, presented, inEnd, outReady, -, -, -, -, agenda⟩ :=
    (Frame.of_rule (exec_rule stream) run).lines
  have rest : (cursorOf t).rest = (cursorOf s).rest := by simp only [cursorOf, presented, ip]
  have position := exec_bitpos_cases stream run
  exact ⟨⟨agenda, outReady, inEnd⟩, bits_length_le_of_bitpos buffer rest position⟩

/-! ### Every session ends -/

/-- A bound on the steps left: 259 for every bit of input, one that reads it and the 258 of the longest copy, and the
bytes the copy under way owes (R453, R555). -/
def stepsLeft (s : State) : Nat :=
  259 * (cursorOf s).bits.length + if s.phase = .copy then s.copyLen.toNat else 0

theorem stepsLeft_le {s : State} (h : Legal s) : stepsLeft s ≤ 259 * (cursorOf s).bits.length + 258 := by
  have owed := h.values.copyLen
  unfold stepsLeft
  split <;> omega

theorem le_stepsLeft (s : State) : 259 * (cursorOf s).bits.length ≤ stepsLeft s := Nat.le_add_right ..

/-- What a step of a running session comes to, its input ended and its output taken: an error, or fewer steps left. -/
def Progress (s t : State) : Prop := t.phase = .error ∨ (SameLines s t ∧ stepsLeft t < stepsLeft s)

/-- A byte copied is one byte less owed (R555). -/
theorem progress_copy {s : State} (h : Legal s) (hp : s.phase = .copy) (b : Byte) :
    Progress s (emit b (countCopy s)) := by
  have owed := (h.ready.copying hp).1
  obtain ⟨n, hn⟩ : ∃ n, s.copyLen.toNat = n + 1 := ⟨_, (Nat.sub_add_cancel owed).symm⟩
  have sameBits : cursorOf (emit b (countCopy s)) = cursorOf s := rfl
  refine .inr ⟨⟨rfl, rfl, rfl⟩, ?_⟩
  simp only [stepsLeft, sameBits, if_pos hp, emit_copyLen, countCopy_copyLen, toNat_copyLen_pred hn]
  split <;> omega

/-- An element takes at least one bit, which pays for the longest copy (R453). -/
theorem progress_element {s t : State} (h : Legal s) (ht : Legal t) {x : Expect} (hx : expected s = some x)
    {is : List Instr} {bs : List Bool} {c : Cursor} (spelled : Spelled x is bs)
    (follows : Follows bs (elementStart x (cursorOf s)) c) (run : execAll is (advanceTo c s) = .next t) :
    Progress s t := by
  obtain ⟨shape, taken, -⟩ := spelled
  obtain ⟨lines, kept⟩ := execAll_keeps_lines_and_bits (h.expected_ne_dSym hx) shape run
  rw [advanceTo_cursor h.values.placed follows] at kept
  have start := elementStart_bits_length_le x (cursorOf s)
  rw [follows.bits, List.length_append] at start
  have before := le_stepsLeft s
  have after := stepsLeft_le ht
  exact .inr ⟨{ lines with }, by omega⟩

section
variable {s t : State} (h : Legal s) (ready : s.outReady = true) (ended : s.inEnd = true)
include h ready ended

theorem progress_runElement {x : Expect} (hx : expected s = some x) (run : runElement x s = .next t) :
    Progress s t := by
  have ht : Legal t := keepsLegal_runElement h hx t run
  have ways := h.fetch_says hx
  unfold runElement at run
  generalize fetch x s = r at ways run
  cases ways with
  | got is bs c spelled follows =>
    have notHeld : ¬ (is.any emits && !(advanceTo c s).outReady) = true := by simp [ready]
    exact progress_element h ht hx spelled follows ((if_neg notHeld).symm.trans run)
  | illegal | ended => cases run; exact .inl rfl
  | hold noEnd => simp [ended] at noEnd

/-- Every step of a running session makes progress, its input ended and its output taken (R768). -/
theorem progress_engineStep (running : restPhase s.phase = false) (run : engineStep s = .next t) : Progress s t := by
  by_cases hp : s.phase = .copy
  · obtain rfl : emit (copyByte s) (countCopy s) = t :=
      Host.Outcome.next.inj (((engineStep_copy hp).trans (if_pos ready)).symm.trans run)
    exact progress_copy h hp _
  · have reads : expected s ≠ none := fun e => by
      rcases expected_rest.mp e with rest | copy
      · simp [running] at rest
      · exact hp copy
    obtain ⟨x, hx⟩ := Option.ne_none_iff_exists'.mp reads
    rw [engineStep_eq_runElement hx] at run
    exact progress_runElement h ready ended hx run

end

/-- IDLE is entered by a reset only, after which no input has ended (R654, R750). -/
theorem done_or_error_of_rest {s : State} (h : Legal s) (ended : s.inEnd = true) (rest : restPhase s.phase = true) :
    s.phase = .done ∨ s.phase = .error := by
  cases hp : s.phase with
  | done => exact .inl rfl
  | error => exact .inr rfl
  | idle =>
    have noEnd : s.inEnd = false := congrArg State.inEnd (h.ready.idle hp)
    simp [ended] at noEnd
  | _ => simp [hp, restPhase] at rest

/-- From a legal state whose input has ended and whose output is taken, the session ends within the steps left and the
one that raises for want of input (R657, R768). -/
theorem runSteps_reaches_end {s : State} (h : Legal s) (empty : s.agenda = []) (ready : s.outReady = true)
    (ended : s.inEnd = true) :
    ∃ n t, n ≤ stepsLeft s + 1 ∧ runSteps n s = .next t ∧ (t.phase = .done ∨ t.phase = .error) := by
  induction left : stepsLeft s using Nat.strong_induction_on generalizing s with
  | _ m ih =>
    subst left
    cases running : restPhase s.phase with
    | true => exact ⟨0, s, Nat.zero_le _, rfl, done_or_error_of_rest h ended running⟩
    | false =>
      obtain ⟨u, run⟩ := completes_engineStep h
      have first : ∀ n, runSteps (n + 1) s = runSteps n u := fun n => by
        rw [runSteps, step_eq_engineStep empty, run]
      rcases progress_engineStep h ready ended running run with failed | ⟨lines, fewer⟩
      · exact ⟨1, u, Nat.le_add_left .., first 0, .inr failed⟩
      · obtain ⟨n, t, bound, runs, final⟩ := ih _ fewer (keepsLegal_engineStep h u run) (lines.agenda.trans empty)
          (lines.outReady.trans ready) (lines.inEnd.trans ended) rfl
        exact ⟨n + 1, t, by omega, (first n).trans runs, final⟩

/-- Settles O59: the bits of input left and the copy under way bound the steps left, which every step lowers. -/
theorem sessionEndsInDoneOrError : Obligations.SessionEndsInDoneOrError := by
  intro s h empty ready ended _
  obtain ⟨n, t, bound, runs, final⟩ := runSteps_reaches_end h empty ready ended
  have most := stepsLeft_le h
  exact ⟨n, t, by omega, runs, final⟩

/-! ### Reset -/

/-- No register shows a field that a hardware reset keeps (R750). -/
theorem readExact_hardwareReset (off : BitVec 6) (s : State) :
    readExact off (hardwareReset s) = readExact off State.reset := rfl

/-- Every register of the reset machine holds 0 (R751). -/
theorem readExact_reset (off : BitVec 6) : readExact off State.reset = 0 := by
  unfold readExact
  split <;> decide

/-- Settles O28: after a reset the engine rests in IDLE, where every register reads exactly and no port offers. -/
theorem registersReadZeroAfterReset : Obligations.RegistersReadZeroAfterReset := by
  intro s
  have rest : restPhase (hardwareReset s).phase = true := rfl
  refine ⟨hardwareReset s, rfl, fun off aligned => ⟨_, if_pos (beq_iff_eq.mpr aligned), ?_⟩,
    inReady_eq_false (.inl rest), outValid_eq_false_of_rest rest, irq_of_disabled rfl⟩
  calc readRegister off (Config.freeRead s.draws) (hardwareReset s)
    _ = readExact off (hardwareReset s) := readRegister_exact (readIsDrawn_of_rest rest off) _
    _ = readExact off State.reset := readExact_hardwareReset off s
    _ = 0 := readExact_reset off

/-- Settles O29: `hardwareReset` takes the reset column of R55, and no window byte is written after it. -/
theorem hardResetRestoresEveryField : Obligations.HardResetRestoresEveryField := by
  refine fun s => ⟨rfl, rfl, rfl, rfl, rfl, rfl, rfl, rfl, rfl, rfl, rfl, rfl, rfl, fun t run a => ?_⟩
  obtain rfl : hardwareReset s = t := Host.Outcome.next.inj run
  rfl

/-- Settles O53: the reset state is a session reset with an empty window. -/
theorem resetStateIsLegal : Obligations.ResetStateIsLegal :=
  ⟨legal_resetSession reset_window_wf, accounts_resetSession State.reset⟩

end Sys2Proof.Machine
end
